-- ==== Sys2Proof/Word.lean ====
section
/-! DEFINITION. The word and index types of ICE-CORE (spec/00_scope.md R6, R9, R10). -/

namespace Sys2Proof

/-- A 32-bit word: a data register, the command word, the bus data (R6). Bit 0 is the least significant (R8). -/
abbrev Word := BitVec 32

/-- One byte of a seed or of a field element (R6, R10). -/
abbrev Byte := BitVec 8

/-- The number of a data register R0..R7 (R21, R82). -/
abbrev Reg := Fin 8

/-- A 20-bit subkey (R6, R194). -/
abbrev Subkey := BitVec 20

/-- The three subkeys of one round, `KS[r][0..2]` (R32). -/
abbrev Subkeys := Vector Subkey 3

/-- The key schedule file: 16 rounds of three subkeys (R32). -/
abbrev Schedule := Vector Subkeys 16

/-- A seed of eight bytes `s0..s7` (R6, R58). -/
abbrev Seed := Vector Byte 8

end Sys2Proof
end

