-- ==== Sys2Proof/Syntax.lean ====
section
/-! DEFINITION. The commands of ICE-CORE, one constructor for each row of spec/opcode_table.json
(spec/30_encoding.md R84, operand order of R91). -/

namespace Sys2Proof

/-- A decoded command. Registers are named by number, immediates by their legal range (R82, R83). -/
inductive Instr where
  /-- `NOP` (R250). -/
  | nop
  /-- `GFMUL rd, ra, rb, rc` (R115): a, b and the modulus. -/
  | gfmul (rd ra rb rc : Reg)
  /-- `GFPOW7 rd, ra, rb` (R116): b and the modulus. -/
  | gfpow7 (rd ra rb : Reg)
  /-- `PERM32 rd, ra` (R117). -/
  | perm32 (rd ra : Reg)
  /-- `SBOX rd, ra, t` (R146): the index register and the table number. -/
  | sbox (rd ra : Reg) (t : Fin 4)
  /-- `ROUNDF rd, ra, rb, rc, re` (R164): p, sk0, sk1, sk2. -/
  | roundf (rd ra rb rc re : Reg)
  /-- `ROUNDK rd, ra, r` (R165): p and the round number. -/
  | roundk (rd ra : Reg) (r : Fin 16)
  /-- `XOR rd, ra, rb` (R251). `CLR rd` is `XOR rd, rd, rd` (R92). -/
  | xor (rd ra rb : Reg)
  /-- `KEYSET ra, rb` (R196): seed bytes 0-3 and 4-7. -/
  | keyset (ra rb : Reg)
  /-- `KSRD rd, r, j` (R197): the round number and the subkey number, 0..2. -/
  | ksrd (rd : Reg) (r : Fin 16) (j : Fin 3)
  /-- `ENC ra, rb` (R223): block bytes 0-3 and 4-7. -/
  | enc (ra rb : Reg)
  /-- `DEC ra, rb` (R224): block bytes 0-3 and 4-7. -/
  | dec (ra rb : Reg)
  deriving DecidableEq, Repr

end Sys2Proof
end

