-- ==== Sys2Proof/WellFormed.lean ====
section
/-! DEFINITION. Which commands have an encoding (spec/30_encoding.md R82, R83, R87). -/

namespace Sys2Proof

/-- A command with an encoding. The ranges of R82 and R83 (and R87's SEL ≠ 3 of KSRD) are in the types of the fields; what
remains is R87's rule that ENC and DEC name two different registers. -/
def Instr.wellFormed : Instr → Bool
  | .nop => true
  | .gfmul _ _ _ _ => true
  | .gfpow7 _ _ _ => true
  | .perm32 _ _ => true
  | .sbox _ _ _ => true
  | .roundf _ _ _ _ _ => true
  | .roundk _ _ _ => true
  | .xor _ _ _ => true
  | .keyset _ _ => true
  | .ksrd _ _ _ => true
  | .enc ra rb => ra ≠ rb
  | .dec ra rb => ra ≠ rb

/-- Well-formedness as a proposition. -/
abbrev Instr.WellFormed (i : Instr) : Prop := i.wellFormed = true

end Sys2Proof
end

