-- ==== Sys2Proof/Decode.lean ====
section
/-! DEFINITION. The decoder and the encoder (spec/30_encoding.md R80-R88). -/

namespace Sys2Proof

/-- Why a command word is ILLEGAL (R85, R86, R87). -/
inductive DecodeError where
  /-- The OP is none of R84's (R86). -/
  | undefinedOpcode
  /-- A bit under the row's mask outside OP is set: a nonzero unused field or RSV (R85). -/
  | nonzeroUnused
  /-- KSRD with SEL = 3 (R87). -/
  | subkeyThree
  /-- ENC or DEC with RA = RB (R87). -/
  | sameRegister
  deriving DecidableEq, Repr

/-- OP, bits 31:24 (R81). -/
def opField (w : Word) : Byte := w.extractLsb' 24 8

/-- The 3-bit register field whose lowest bit is bit `lo` (R81, R82). -/
def regField (w : Word) (lo : Nat) : Reg := (w.extractLsb' lo 3).toFin

/-- RD, bits 2:0 (R81). -/
def rdField (w : Word) : Reg := regField w 0
/-- RA, bits 5:3 (R81). -/
def raField (w : Word) : Reg := regField w 3
/-- RB, bits 8:6 (R81). -/
def rbField (w : Word) : Reg := regField w 6
/-- RC, bits 11:9 (R81). -/
def rcField (w : Word) : Reg := regField w 9
/-- RE, bits 14:12 (R81). -/
def reField (w : Word) : Reg := regField w 12
/-- SEL, bits 19:18 (R81). -/
def selField (w : Word) : Fin 4 := (w.extractLsb' 18 2).toFin
/-- RND, bits 23:20 (R81). -/
def rndField (w : Word) : Fin 16 := (w.extractLsb' 20 4).toFin

/-- KSRD's subkey number: SEL, refused where it is 3 (R83, R87). -/
def subkeyField (w : Word) : Except DecodeError (Fin 3) :=
  if h : (selField w).val < 3 then .ok ⟨(selField w).val, h⟩ else .error .subkeyThree

/-- The command of a word with KSRD's fields (R87, R88). -/
def ksrdOperands (w : Word) : Except DecodeError Instr :=
  match subkeyField w with
  | .ok j => .ok (.ksrd (rdField w) (rndField w) j)
  | .error e => .error e

/-- The command of a word with ENC's or DEC's fields (R87, R88). -/
def blockOperands (build : Reg → Reg → Instr) (w : Word) : Except DecodeError Instr :=
  if raField w = rbField w then .error .sameRegister else .ok (build (raField w) (rbField w))

/-- One row of R84's table: the opcode, the match value, the mask, and the command its fields name. -/
structure Row where
  op : Byte
  pattern : Word
  mask : Word
  operands : Word → Except DecodeError Instr

/-- The table of R84. -/
def opcodeTable : List Row :=
  [ ⟨0x00, 0x00000000, 0xFFFFFFFF, fun _ => .ok .nop⟩,
    ⟨0x01, 0x01000000, 0xFFFFF000, fun w => .ok (.gfmul (rdField w) (raField w) (rbField w) (rcField w))⟩,
    ⟨0x02, 0x02000000, 0xFFFFFE00, fun w => .ok (.gfpow7 (rdField w) (raField w) (rbField w))⟩,
    ⟨0x03, 0x03000000, 0xFFFFFFC0, fun w => .ok (.perm32 (rdField w) (raField w))⟩,
    ⟨0x04, 0x04000000, 0xFFF3FFC0, fun w => .ok (.sbox (rdField w) (raField w) (selField w))⟩,
    ⟨0x05, 0x05000000, 0xFFFF8000,
      fun w => .ok (.roundf (rdField w) (raField w) (rbField w) (rcField w) (reField w))⟩,
    ⟨0x06, 0x06000000, 0xFF0FFFC0, fun w => .ok (.roundk (rdField w) (raField w) (rndField w))⟩,
    ⟨0x07, 0x07000000, 0xFFFFFE00, fun w => .ok (.xor (rdField w) (raField w) (rbField w))⟩,
    ⟨0x10, 0x10000000, 0xFFFFFE07, fun w => .ok (.keyset (raField w) (rbField w))⟩,
    ⟨0x11, 0x11000000, 0xFF03FFF8, ksrdOperands⟩,
    ⟨0x20, 0x20000000, 0xFFFFFE07, blockOperands .enc⟩,
    ⟨0x21, 0x21000000, 0xFFFFFE07, blockOperands .dec⟩ ]

/-- The row whose OP equals the word's (R88). -/
def rowOf (w : Word) : Option Row := opcodeTable.find? fun row => row.op == opField w

/-- The decode procedure of R88, total on every word. -/
def decode (w : Word) : Except DecodeError Instr :=
  match rowOf w with
  | none => .error .undefinedOpcode
  | some row => if w &&& row.mask = row.pattern then row.operands w else .error .nonzeroUnused

/-- A field's value `v`, placed with its lowest bit at bit `lo` (R81). -/
def placed (v lo : Nat) : Word := BitVec.ofNat 32 v <<< lo

/-- The word of a command: its match value with its fields in place, every unused field and RSV 0 (R81, R84, R91). -/
def encode : Instr → Word
  | .nop => 0x00000000
  | .gfmul rd ra rb rc => 0x01000000 ||| placed rc 9 ||| placed rb 6 ||| placed ra 3 ||| placed rd 0
  | .gfpow7 rd ra rb => 0x02000000 ||| placed rb 6 ||| placed ra 3 ||| placed rd 0
  | .perm32 rd ra => 0x03000000 ||| placed ra 3 ||| placed rd 0
  | .sbox rd ra t => 0x04000000 ||| placed t 18 ||| placed ra 3 ||| placed rd 0
  | .roundf rd ra rb rc re =>
      0x05000000 ||| placed re 12 ||| placed rc 9 ||| placed rb 6 ||| placed ra 3 ||| placed rd 0
  | .roundk rd ra r => 0x06000000 ||| placed r 20 ||| placed ra 3 ||| placed rd 0
  | .xor rd ra rb => 0x07000000 ||| placed rb 6 ||| placed ra 3 ||| placed rd 0
  | .keyset ra rb => 0x10000000 ||| placed rb 6 ||| placed ra 3
  | .ksrd rd r j => 0x11000000 ||| placed r 20 ||| placed j 18 ||| placed rd 0
  | .enc ra rb => 0x20000000 ||| placed rb 6 ||| placed ra 3
  | .dec ra rb => 0x21000000 ||| placed rb 6 ||| placed ra 3

/-- The command word whose low `nbits` bits are `w`'s, as spec/opcode_table.json numbers them, the rest 0 (R80). -/
def tableWord (nbits w : Nat) : Word := BitVec.ofNat 32 (w % 2 ^ nbits)

/-- What the decoder reads from a table word; a command is one 32-bit word, so it is the word itself (R80). -/
def decodeTableWord (nbits w : Nat) : Option Instr := (decode (tableWord nbits w)).toOption

end Sys2Proof
end

