-- ==== Sys2Proof/Config.lean ====
section
/-! DEFINITION. What an implementation fixes and what the spec leaves free (spec/00_scope.md R7,
spec/93_implementation_defined.md U9-U12). None of these constants has a body, so no proof can see a value. -/

namespace Sys2Proof

/-- `SBOX_BUILD_AT_RESET` (R7, D22, U10): whether the block computes the S-box contents after reset with BUSY = 1.
A parameter of the implementation, left open (notes/assumptions/5.md). -/
opaque Config.sboxBuildAtReset : Bool

/-- `ICE_BASE` in units of 64 bytes, so that the base is 64-byte aligned whatever it is (R7, R52, D3, U9;
notes/assumptions/6.md). -/
opaque Config.iceBaseUnits : Nat

/-- `ICE_BASE`: the platform's base address of the 64-byte register window (R7, R52). -/
def Config.iceBase : Nat := 64 * Config.iceBaseUnits

/-- The free value behind `CMD_LATENCY` (R7, R301, U11, U12): whether a STATUS read that the host presents while BUSY = 1
is answered before the engine completes the command. It is applied to the count of host moves made, so each STATUS read
and each command draws anew (notes/assumptions/4.md). -/
opaque Config.statusReadFirst : Nat → Bool

end Sys2Proof
end

