-- ==== Sys2Proof/Machine/State.lean ====
section
/-! DEFINITION. The state of one ICE-CORE instance and of the host's side of its port, as plain data
(spec/10_state.md R20-R40, spec/20_memory.md R50, R51, spec/70_reset_and_hazards.md R290-R293). -/

namespace Sys2Proof.Machine

/-- PEND (R35, R293): empty, the word of the command being executed, or the marker BUILD of the reset-time build. -/
inductive Pend where
  | empty
  | command (w : Word)
  | build
  deriving DecidableEq, Repr

/-- A command's result code (R261). -/
inductive Code where
  | ok
  | illegal
  | nokey
  | operand
  deriving DecidableEq, Repr

/-- One host access at the port (R50, R51): write enable, word index, byte enables and write data. -/
structure Access where
  we : Bool
  addr : BitVec 4
  be : BitVec 4
  wdata : Word
  deriving DecidableEq, Repr

/-- The answer to an access, given with `ack` (R50, R51, R55). `rdata` is the read data; a write's answer has none
(notes/assumptions/7.md). -/
structure Answer where
  err : Bool
  rdata : Option Word
  deriving DecidableEq, Repr

/-- What the host can do to the block (R290, R292, R296): make one access, or assert reset. A reset carries the access the
host had in progress, if any, which it abandons without an answer (R292; notes/assumptions/9.md). -/
inductive HostMove where
  | access (a : Access)
  | reset (inProgress : Option Access)
  deriving DecidableEq, Repr

/-- The host's side of the port; no state of the block (R296; notes/assumptions/3.md, notes/assumptions/4.md).
`todo`: the host's coming moves, in order. `answers`: the answers given so far, latest first. `moves`: how many host
moves were made, the argument of the free value `Config.statusReadFirst`. -/
structure Port where
  todo : List HostMove
  answers : List Answer
  moves : Nat
  deriving DecidableEq, Repr

/-- The architectural state (R20), with the host's side of the port. The constants ID, BLKSIZE and SBOX are definitions,
not fields (notes/assumptions/2.md); STATUS.BUSY is `State.busy` of `pend` (R35). -/
structure State where
  /-- R0..R7 (R21). -/
  x : Vector Word 8
  /-- STATUS.KEYVALID (R26). -/
  keyValid : Bool
  /-- STATUS.EFLAG (R27). -/
  eflag : Bool
  /-- STATUS.ERR (R28). -/
  err : BitVec 4
  /-- CMD (R29). -/
  cmd : Word
  /-- KS (R32). -/
  ks : Schedule
  /-- PEND (R35). -/
  pend : Pend
  /-- The host's side of the port. -/
  port : Port
  deriving DecidableEq, Repr

/-- No fault: the block answers every access and gives every command word an outcome (R302, R304), so no step of it stops.
The type has no constructor, and nothing raises one. -/
inductive Fault where
  deriving DecidableEq, Repr

/-- What `exec` answers for a command that has no meaning yet. -/
inductive Refusal where
  /-- Raised by an arm of `exec` that has no meaning yet; no arm is one now. Safe: the model stops where the block goes on. -/
  | notModelled (mnemonic : String)
  deriving DecidableEq, Repr

/-- The answer of one step. -/
abbrev Result := Host.Outcome State Fault Refusal

/-- PEND after reset (R291): BUILD when `SBOX_BUILD_AT_RESET`, else empty. -/
def Pend.reset : Pend := if Config.sboxBuildAtReset then .build else .empty

/-- The state right after reset (R291), with a host that has made no move and has none to make (notes/assumptions/3.md). -/
def State.reset : State where
  x := Vector.replicate 8 0x00000000
  keyValid := false
  eflag := false
  err := 0
  cmd := 0x00000000
  ks := Vector.replicate 16 (Vector.replicate 3 0x00000)
  pend := Pend.reset
  port := { todo := [], answers := [], moves := 0 }

end Sys2Proof.Machine
end

