-- ==== Sys2Proof/Machine/Flags.lean ====
section
/-! DEFINITION. STATUS and its fields (spec/10_state.md R24-R28, R39; spec/60_exceptions.md R261, R262). -/

namespace Sys2Proof.Machine

/-- The 4-bit value of a result code (R28, R261). Codes 4..15 are reserved and never produced. -/
def Code.bits : Code → BitVec 4
  | .ok => 0
  | .illegal => 1
  | .nokey => 2
  | .operand => 3

/-- Whether a code reports an error, which is what sets EFLAG (R27, R262). -/
def Code.isError : Code → Bool
  | .ok => false
  | .illegal => true
  | .nokey => true
  | .operand => true

/-- STATUS.BUSY: 1 exactly when PEND is not empty (R25, R35). -/
def State.busy (s : State) : Bool :=
  match s.pend with
  | .empty => false
  | .command _ => true
  | .build => true

/-- The word a read of STATUS returns: ERR at bits 11:8, EFLAG bit 2, KEYVALID bit 1, BUSY bit 0, the reserved bits 0
(R24, R54). -/
def State.status (s : State) : Word :=
  0#20 ++ s.err ++ 0#5 ++ BitVec.ofBool s.eflag ++ BitVec.ofBool s.keyValid ++ BitVec.ofBool s.busy

end Sys2Proof.Machine
end

