-- ==== Sys2Proof/Machine/Operands.lean ====
section
/-! DEFINITION. The operand forms of the commands: which register values are in a command's domain (spec/41_gf_perm.md R115,
R116, spec/42_sbox.md R146, spec/43_round.md R164) and how eight bytes lie in two words (spec/00_scope.md R10,
spec/20_memory.md R56-R58). -/

namespace Sys2Proof.Machine

/-- An 8-bit field element: `none` for a value above 0xFF (R115, R116). -/
def gfElement (v : Word) : Option Byte :=
  if v ≤ 0xFF#32 then some (v.setWidth 8) else none

/-- A 9-bit modulus with bit 8 set: `none` outside 0x100..0x1FF (R115, R116). -/
def gfModulus (v : Word) : Option (BitVec 9) :=
  if 0x100#32 ≤ v ∧ v ≤ 0x1FF#32 then some (v.setWidth 9) else none

/-- An S-box index: `none` above 0x3FF (R146). -/
def sboxIndex (v : Word) : Option (BitVec 10) :=
  if v ≤ 0x3FF#32 then some (v.setWidth 10) else none

/-- ROUNDF's sk0 or sk1: `none` above 0xFFFFF (R164). -/
def subkeyOperand (v : Word) : Option Subkey :=
  if v ≤ 0xFFFFF#32 then some (v.setWidth 20) else none

/-- ROUNDF's sk2: bits 31:20 are ignored (R164, U20). -/
def swapOperand (v : Word) : Subkey := v.setWidth 20

/-- Byte `k` of a word: `w[31−8k : 24−8k]`, byte 0 the most significant (R10). -/
def wordByte (w : Word) (k : Nat) : Byte := w.extractLsb' (24 - 8 * k) 8

/-- The seed of two words: `hi = s0‖s1‖s2‖s3`, `lo = s4‖s5‖s6‖s7` (R58, R196). -/
def seedOf (hi lo : Word) : Seed :=
  #v[wordByte hi 0, wordByte hi 1, wordByte hi 2, wordByte hi 3,
     wordByte lo 0, wordByte lo 1, wordByte lo 2, wordByte lo 3]

end Sys2Proof.Machine
end

