-- ==== Sys2Proof/Machine/Ops.lean ====
section
/-! DEFINITION. The named operations on registers and the completion of a command (spec/00_scope.md R11, R12,
spec/60_exceptions.md R260-R264). -/

namespace Sys2Proof.Machine

/-- `x[i]` (R11, R21). -/
def State.readReg (s : State) (r : Reg) : Word := s.x[r]

/-- `x[i] <- v` (R11, R21). -/
def State.writeReg (s : State) (r : Reg) (v : Word) : State := { s with x := s.x.set r v }

/-- `KS[r]`, the three subkeys of a round (R11, R32). -/
def State.readKs (s : State) (r : Fin 16) : Subkeys := s.ks[r]

/-- KEYSET's writes: all 48 words at once, and KEYVALID (R32, R196). -/
def State.writeKs (s : State) (ks : Schedule) : State := { s with ks := ks, keyValid := true }

/-- The completion update `finish(c)` of R262: ERR, the sticky EFLAG, and PEND emptied, so that BUSY becomes 0. -/
def State.finish (s : State) (c : Code) : State :=
  { s with err := c.bits, eflag := s.eflag || c.isError, pend := .empty }

/-- `complete()`: the command's writes are in `s`; `finish(0)` happens with them in one step (R11, R262). -/
def complete (s : State) : Result := .next (s.finish .ok)

/-- `raise Error(code)`: the command ends with the code and has written nothing (R11, R262). This is all that happens on an
error: the block has no trap entry, no handler and no return (R260, R267, R268). -/
def raiseError (c : Code) (s : State) : Result := .next (s.finish c)

/-- The key check of the commands that read KS: NOKEY while KEYVALID = 0 (R26, R261, R263). -/
def withKey (s : State) (k : Result) : Result := if s.keyValid then k else raiseError .nokey s

/-- R87's register check of ENC and DEC. The decoder has made it already, so a decoded command passes it. -/
def withDistinct (ra rb : Reg) (s : State) (k : Result) : Result := if ra = rb then raiseError .illegal s else k

/-- Write one result and complete (R262). -/
def writeBack (rd : Reg) (v : Word) (s : State) : Result := complete (s.writeReg rd v)

/-- Write one result whose operands passed the command's domain check, or end with OPERAND (R261, R263). -/
def writeBackChecked (rd : Reg) (v : Option Word) (s : State) : Result :=
  match v with
  | some v => writeBack rd v s
  | none => raiseError .operand s

end Sys2Proof.Machine
end

