-- ==== Sys2Proof/Machine/Bus.lean ====
section
/-! DEFINITION. The register window, host accesses, the hold, and reset as a host move (spec/20_memory.md,
spec/70_reset_and_hazards.md R290-R293, R296, R303). -/

namespace Sys2Proof.Machine

/-- What stands at a word slot of the register window (R53). -/
inductive Slot where
  | id
  | blksize
  | status
  | cmd
  | data (r : Reg)
  | reserved
  deriving DecidableEq, Repr

/-- The register map (R53), by word index: byte offset = 4 × index (R50). -/
def slotAt (addr : BitVec 4) : Slot :=
  match addr.toNat with
  | 0 => .id
  | 1 => .blksize
  | 2 => .status
  | 3 => .cmd
  | n + 4 => if h : n < 8 then .data ⟨n, h⟩ else .reserved

/-- The constant that ID reads as: ASCII "ICE1" (R30). -/
def idWord : Word := 0x49434531

/-- The constant that BLKSIZE reads as (R31). -/
def blksizeWord : Word := 0x00000008

/-- `MemRead` of a slot (R54): `none` for a reserved one, which is refused (R55). No read has a side effect. -/
def memRead (s : State) : Slot → Option Word
  | .id => some idWord
  | .blksize => some blksizeWord
  | .status => some s.status
  | .cmd => some s.cmd
  | .data r => some (s.readReg r)
  | .reserved => none

/-- A CMD write (R29, R54): the word is stored in CMD and in PEND, so that BUSY becomes 1. -/
def State.issue (s : State) (w : Word) : State := { s with cmd := w, pend := .command w }

/-- `MemWrite` of a slot (R54): `none` for a read-only or reserved one, which is refused (R55). -/
def memWrite (s : State) (v : Word) : Slot → Option State
  | .id => none
  | .blksize => none
  | .status => none
  | .cmd => some (s.issue v)
  | .data r => some (s.writeReg r v)
  | .reserved => none

/-- The ERROR response (R55): no state changes, and a read's rdata is 0. -/
def errorAnswer (a : Access) : Answer := { err := true, rdata := if a.we then none else some 0x00000000 }

/-- An access that is not held: the block's state after it, and its answer (R54, R55). Partial byte enables are refused first. -/
def respond (a : Access) (s : State) : State × Answer :=
  if a.be ≠ 0b1111#4 then (s, errorAnswer a)
  else if a.we then
    match memWrite s a.wdata (slotAt a.addr) with
    | some s' => (s', { err := false, rdata := none })
    | none => (s, errorAnswer a)
  else
    match memRead s (slotAt a.addr) with
    | some v => (s, { err := false, rdata := some v })
    | none => (s, errorAnswer a)

/-- A read of 0x08, the one access that BUSY = 1 does not hold (R62, R296; notes/assumptions/8.md). -/
def Access.isStatusRead (a : Access) : Bool := !a.we && slotAt a.addr == .status

/-- The host's move made: `todo` is what it has left, and one more move is counted. -/
def Port.moved (p : Port) (rest : List HostMove) : Port := { p with todo := rest, moves := p.moves + 1 }

/-- The host's access performed (R296), its answer recorded. -/
def State.serve (s : State) (a : Access) (rest : List HostMove) : State :=
  let p := respond a s
  { p.1 with port := { s.port.moved rest with answers := p.2 :: s.port.answers } }

/-- Reset (R290-R292): the block takes the reset values, whatever it was doing; the host keeps what it has seen. -/
def State.resetMove (s : State) (rest : List HostMove) : State :=
  { State.reset with port := s.port.moved rest }

/-- The end of the reset-time build (R293): PEND is emptied, ERR and EFLAG stay. -/
def State.buildDone (s : State) : State := { s with pend := .empty }

/-- What the next step is (R296). -/
inductive Turn where
  | reset (rest : List HostMove)
  | access (a : Access) (rest : List HostMove)
  | engine
  | idle
  deriving DecidableEq, Repr

/-- Which agent moves (R296). A reset is taken at once (R290). An access is performed while BUSY = 0. While BUSY = 1 the
engine moves, but for a STATUS read, which is answered before it or after it as the free value says (R62, R301;
notes/assumptions/4.md). With nothing to do the block waits (R294, R303). -/
def State.turn (s : State) : Turn :=
  match s.port.todo with
  | .reset _ :: rest => .reset rest
  | .access a :: rest =>
    if s.busy && !(a.isStatusRead && Config.statusReadFirst s.port.moves) then .engine else .access a rest
  | [] => if s.busy then .engine else .idle

/-- The word slot a platform address selects: the window is 64 bytes at `ICE_BASE` (R50, R52). `none` outside the window and
for an address that is no multiple of 4, which the port cannot express (R59). -/
def windowSlot (address : Nat) : Option (BitVec 4) :=
  if Config.iceBase ≤ address ∧ address < Config.iceBase + 64 ∧ (address - Config.iceBase) % 4 = 0
  then some (BitVec.ofNat 4 ((address - Config.iceBase) / 4)) else none

end Sys2Proof.Machine
end

