-- ==== Sys2Proof/Machine/Gf.lean ====
section
/-! DEFINITION. GF(2^8) arithmetic and the 32-bit bit permutation, with GFMUL, GFPOW7 and PERM32 (spec/41_gf_perm.md). -/

namespace Sys2Proof.Machine

/-- One iteration of R110's loop on `(res, acc)`. -/
def gfMulStep (b : Byte) (m : BitVec 9) (p : Byte × BitVec 9) (i : Nat) : Byte × BitVec 9 :=
  let res := if b.getLsbD i then p.1 ^^^ p.2.setWidth 8 else p.1
  let acc := p.2 <<< 1
  (res, if acc.getLsbD 8 then acc ^^^ m else acc)

/-- `gf_mul(a, b, m)` (R110): carryless multiply, reducing after each shift when bit 8 becomes set. -/
def gfMul (a b : Byte) (m : BitVec 9) : Byte :=
  ([0, 1, 2, 3, 4, 5, 6, 7].foldl (gfMulStep b m) (0, a.setWidth 9)).1

/-- `gf_pow7(b, m)` (R112): the chain b², b³, b⁶, b⁷. -/
def gfPow7 (b : Byte) (m : BitVec 9) : Byte :=
  let t2 := gfMul b b m
  let t3 := gfMul b t2 m
  let t6 := gfMul t3 t3 m
  gfMul b t6 m

/-- PBOX, entries 0..31 (R114). -/
def pbox : List Word :=
  [ 0x00000001, 0x00000080, 0x00000400, 0x00002000, 0x00080000, 0x00200000, 0x01000000, 0x40000000,
    0x00000008, 0x00000020, 0x00000100, 0x00004000, 0x00010000, 0x00800000, 0x04000000, 0x20000000,
    0x00000004, 0x00000010, 0x00000200, 0x00008000, 0x00020000, 0x00400000, 0x08000000, 0x10000000,
    0x00000002, 0x00000040, 0x00000800, 0x00001000, 0x00040000, 0x00100000, 0x02000000, 0x80000000 ]

/-- R113's loop over the entries of the table from bit `i` on. -/
def scatter (v : Word) : List Word → Nat → Word → Word
  | [], _, res => res
  | p :: ps, i, res => scatter v ps (i + 1) (if v.getLsbD i then res ||| p else res)

/-- `perm32(v)` (R113): each set bit i of v sets the output bit of PBOX[i]. -/
def perm32 (v : Word) : Word := scatter v pbox 0 0

/-- The product of three register values, where each is in its range (R115). -/
def gfMulWord (a b m : Word) : Option Word :=
  match gfElement a, gfElement b, gfModulus m with
  | some a, some b, some m => some ((gfMul a b m).setWidth 32)
  | _, _, _ => none

/-- The seventh power of a register value, where it and the modulus are in range (R116). -/
def gfPow7Word (b m : Word) : Option Word :=
  match gfElement b, gfModulus m with
  | some b, some m => some ((gfPow7 b m).setWidth 32)
  | _, _ => none

/-- GFMUL (R115). -/
def execGfmul (rd ra rb rc : Reg) (s : State) : Result :=
  writeBackChecked rd (gfMulWord (s.readReg ra) (s.readReg rb) (s.readReg rc)) s

/-- GFPOW7 (R116). -/
def execGfpow7 (rd ra rb : Reg) (s : State) : Result :=
  writeBackChecked rd (gfPow7Word (s.readReg ra) (s.readReg rb)) s

/-- PERM32 (R117). -/
def execPerm32 (rd ra : Reg) (s : State) : Result := writeBack rd (perm32 (s.readReg ra)) s

end Sys2Proof.Machine
end

