-- ==== Sys2Proof/Machine/Sbox.lean ====
section
/-! DEFINITION. The S-box ROM's contents and the SBOX command (spec/42_sbox.md). -/

namespace Sys2Proof.Machine

/-- SMOD[t][row] (R140). -/
def smod : Vector (Vector (BitVec 9) 4) 4 :=
  #v[ #v[0x14D, 0x139, 0x1F9, 0x171],
      #v[0x17B, 0x177, 0x13F, 0x187],
      #v[0x169, 0x1BD, 0x1C3, 0x18D],
      #v[0x18D, 0x1A9, 0x18B, 0x1F9] ]

/-- SXOR[t][row] (R141). -/
def sxor : Vector (Vector Byte 4) 4 :=
  #v[ #v[0x83, 0x85, 0x9B, 0xCD],
      #v[0xCC, 0xA7, 0xAD, 0x41],
      #v[0x4B, 0x2E, 0xD4, 0x33],
      #v[0xEA, 0xCB, 0x2E, 0x04] ]

/-- The column of an index: `i[8:1]` (R142). -/
def sboxCol (i : BitVec 10) : Byte := i.extractLsb' 1 8

/-- The row of an index: `i[9] ‖ i[0]` (R142). -/
def sboxRow (i : BitVec 10) : Fin 4 := (i.extractLsb' 9 1 ++ i.extractLsb' 0 1).toFin

/-- `SBOX[t][i]`, the constant contents of the ROM (R34, R143, R144). -/
def sboxEntry (t : Fin 4) (i : BitVec 10) : Word :=
  perm32 ((gfPow7 (sboxCol i ^^^ sxor[t][sboxRow i]) smod[t][sboxRow i]).setWidth 32 <<< (24 - 8 * t.val))

/-- The entry at a register's value, where it is an index (R146). -/
def sboxWord (t : Fin 4) (v : Word) : Option Word := (sboxIndex v).map (sboxEntry t)

/-- SBOX (R146). -/
def execSbox (rd ra : Reg) (t : Fin 4) (s : State) : Result := writeBackChecked rd (sboxWord t (s.readReg ra)) s

end Sys2Proof.Machine
end

