-- ==== Sys2Proof/Machine/Round.lean ====
section
/-! DEFINITION. The round function F, with ROUNDF and ROUNDK (spec/43_round.md). -/

namespace Sys2Proof.Machine

/-- `tl = p[1:0] ‖ p[31:24] ‖ p[25:16]` (R160). -/
def expandLeft (p : Word) : Subkey := p.extractLsb' 0 2 ++ p.extractLsb' 24 8 ++ p.extractLsb' 16 10

/-- `tr = p[17:8] ‖ p[9:0]` (R160). -/
def expandRight (p : Word) : Subkey := p.extractLsb' 8 10 ++ p.extractLsb' 0 10

/-- Key mixing of `tl` and `tr` with the three subkeys: `(al, ar)` (R161). -/
def keyMix (tl tr : Subkey) (sk : Subkeys) : Subkey × Subkey :=
  let al := sk[2] &&& (tl ^^^ tr)
  let ar := al ^^^ tr
  (al ^^^ tl ^^^ sk[0], ar ^^^ sk[1])

/-- The four lookups and their OR (R162). -/
def substitute (al ar : Subkey) : Word :=
  sboxEntry 0 (al.extractLsb' 10 10) ||| sboxEntry 1 (al.extractLsb' 0 10) |||
    sboxEntry 2 (ar.extractLsb' 10 10) ||| sboxEntry 3 (ar.extractLsb' 0 10)

/-- The round function `F(p, sk0, sk1, sk2)` (R163). -/
def roundF (p : Word) (sk : Subkeys) : Word :=
  let a := keyMix (expandLeft p) (expandRight p) sk
  substitute a.1 a.2

/-- F on ROUNDF's four register values, where sk0 and sk1 are subkeys; sk2's bits 31:20 are ignored (R164). -/
def roundFWord (p k0 k1 k2 : Word) : Option Word :=
  match subkeyOperand k0, subkeyOperand k1 with
  | some k0, some k1 => some (roundF p #v[k0, k1, swapOperand k2])
  | _, _ => none

/-- ROUNDF (R164). -/
def execRoundf (rd ra rb rc re : Reg) (s : State) : Result :=
  writeBackChecked rd (roundFWord (s.readReg ra) (s.readReg rb) (s.readReg rc) (s.readReg re)) s

/-- ROUNDK (R165). -/
def execRoundk (rd ra : Reg) (r : Fin 16) (s : State) : Result :=
  withKey s (writeBack rd (roundF (s.readReg ra) (s.readKs r)) s)

end Sys2Proof.Machine
end

