-- ==== Sys2Proof/Machine/Cipher.lean ====
section
/-! DEFINITION. The block cipher, with ENC and DEC (spec/45_block_cipher.md). -/

namespace Sys2Proof.Machine

/-- One loop step of R220 or R221 on `(L, R)`: L takes F of R with round `i`, then R takes F of the new L with round `j`. -/
def feistelStep (ks : Schedule) (p : Word × Word) (ij : Fin 16 × Fin 16) : Word × Word :=
  let l := p.1 ^^^ roundF p.2 ks[ij.1]
  (l, p.2 ^^^ roundF l ks[ij.2])

/-- The rounds of the loop steps of R220: `(i, i+1)` for i = 0, 2, …, 14. -/
def encryptRounds : List (Fin 16 × Fin 16) :=
  [(0, 1), (2, 3), (4, 5), (6, 7), (8, 9), (10, 11), (12, 13), (14, 15)]

/-- The rounds of the loop steps of R221: `(i, i−1)` for i = 15, 13, …, 1. -/
def decryptRounds : List (Fin 16 × Fin 16) :=
  [(15, 14), (13, 12), (11, 10), (9, 8), (7, 6), (5, 4), (3, 2), (1, 0)]

/-- The loop and the swapped output `(R, L)` of R220 and R221. -/
def feistel (rounds : List (Fin 16 × Fin 16)) (ks : Schedule) (l r : Word) : Word × Word :=
  (rounds.foldl (feistelStep ks) (l, r)).swap

/-- `encrypt(KS, L, R)` (R220). -/
def encrypt (ks : Schedule) (l r : Word) : Word × Word := feistel encryptRounds ks l r

/-- `decrypt(KS, L, R)` (R221). -/
def decrypt (ks : Schedule) (l r : Word) : Word × Word := feistel decryptRounds ks l r

/-- Write a block back to the two registers it came from and complete (R57, R223, R224). -/
def writeBlock (ra rb : Reg) (b : Word × Word) (s : State) : Result :=
  complete ((s.writeReg ra b.1).writeReg rb b.2)

/-- ENC (R223). -/
def execEnc (ra rb : Reg) (s : State) : Result :=
  withDistinct ra rb s (withKey s (writeBlock ra rb (encrypt s.ks (s.readReg ra) (s.readReg rb)) s))

/-- DEC (R224). -/
def execDec (ra rb : Reg) (s : State) : Result :=
  withDistinct ra rb s (withKey s (writeBlock ra rb (decrypt s.ks (s.readReg ra) (s.readReg rb)) s))

end Sys2Proof.Machine
end

