-- ==== Sys2Proof/Machine/KeySchedule.lean ====
section
/-! DEFINITION. The key schedule, with KEYSET and KSRD (spec/44_key_schedule.md). -/

namespace Sys2Proof.Machine

/-- The four rotating registers kb[0..3] (R36). They exist only inside one key schedule. -/
abbrev RotRegs := Vector (BitVec 16) 4

/-- KEYROT[0..7], for rounds 0..7 (R190, R193). -/
def keyrotLow : List (Fin 4) := [0, 1, 2, 3, 2, 1, 3, 0]

/-- KEYROT[8..15], for rounds 8..15 (R190, R193). -/
def keyrotHigh : List (Fin 4) := [1, 3, 2, 0, 3, 1, 0, 2]

/-- Load: `kb[3 − i] <- s[2i] ‖ s[2i+1]`, the earlier byte high (R191). -/
def loadKb (s : Seed) : RotRegs := #v[s[6] ++ s[7], s[4] ++ s[5], s[2] ++ s[3], s[0] ++ s[1]]

/-- Rotate right by one bit, the complement of the extracted bit re-entering at bit 15 (R192). -/
def rotateNot (v : BitVec 16) : BitVec 16 := ~~~v.extractLsb' 0 1 ++ v.extractLsb' 1 15

/-- One bit of R192's innermost loop: register `q = (kr + k) mod 4` gives its lowest bit to accumulator `c` and rotates. -/
def scheduleBit (kr c : Nat) (p : RotRegs × Subkeys) (k : Nat) : RotRegs × Subkeys :=
  let q : Fin 4 := Fin.ofNat 4 (kr + k)
  let acc : Fin 3 := Fin.ofNat 3 c
  let bit := p.1[q].extractLsb' 0 1
  (p.1.set q (rotateNot p.1[q]), p.2.set acc (p.2[acc] <<< 1 ||| bit.setWidth 20))

/-- Iteration `j` of a round: one bit from each of the four registers to accumulator `j mod 3` (R192; 90_conflicts.md C3:
k = 0, 1, 2, 3). -/
def scheduleIteration (kr : Nat) (p : RotRegs × Subkeys) (j : Nat) : RotRegs × Subkeys :=
  [0, 1, 2, 3].foldl (scheduleBit kr (j % 3)) p

/-- The three subkeys of one round, and the registers it leaves (R192): 15 iterations from zero accumulators. -/
def scheduleRound (kb : RotRegs) (kr : Nat) : RotRegs × Subkeys :=
  [0, 1, 2, 3, 4, 5, 6, 7, 8, 9, 10, 11, 12, 13, 14].foldl (scheduleIteration kr) (kb, #v[0, 0, 0])

/-- `build(n, rot)` (R192): the rounds from `n` on, one for each entry of `rot`, written into the schedule. -/
def buildHalf (kb : RotRegs) (ks : Schedule) : List (Fin 4) → Nat → RotRegs × Schedule
  | [], _ => (kb, ks)
  | kr :: rot, n =>
    let p := scheduleRound kb kr.val
    buildHalf p.1 (ks.setIfInBounds n p.2) rot (n + 1)

/-- The whole procedure of R193 from the loaded registers: two builds, the registers carried over (90_conflicts.md C1).
All 16 rounds are written, so the schedule it starts from does not matter. -/
def buildSchedule (kb : RotRegs) : RotRegs × Schedule :=
  let p := buildHalf kb (Vector.replicate 16 #v[0, 0, 0]) keyrotLow 0
  buildHalf p.1 p.2 keyrotHigh 8

/-- `key_schedule(s0..s7)` (R193). -/
def keySchedule (s : Seed) : Schedule := (buildSchedule (loadKb s)).2

/-- KEYSET (R196). -/
def execKeyset (ra rb : Reg) (s : State) : Result :=
  complete (s.writeKs (keySchedule (seedOf (s.readReg ra) (s.readReg rb))))

/-- KSRD (R197). -/
def execKsrd (rd : Reg) (r : Fin 16) (j : Fin 3) (s : State) : Result :=
  withKey s (writeBack rd ((s.readKs r)[j].setWidth 32) s)

end Sys2Proof.Machine
end

