-- ==== Sys2Proof/Machine/Utility.lean ====
section
/-! DEFINITION. The utility commands NOP and XOR (spec/46_utility.md). -/

namespace Sys2Proof.Machine

/-- NOP (R250): no data state changes; the completion update clears ERR. -/
def execNop (s : State) : Result := complete s

/-- XOR (R251). -/
def execXor (rd ra rb : Reg) (s : State) : Result := writeBack rd (s.readReg ra ^^^ s.readReg rb) s

end Sys2Proof.Machine
end

