-- ==== Sys2Proof/Machine/Dispatch.lean ====
section
/-! DEFINITION. Which meaning runs for which command (spec/30_encoding.md R84, spec/60_exceptions.md R263). -/

namespace Sys2Proof.Machine

def exec (i : Instr) (s : State) : Host.Outcome State Fault Refusal :=
  match i with
  | .nop => Sys2Proof.Machine.execNop s
  | .gfmul rd ra rb rc => Sys2Proof.Machine.execGfmul rd ra rb rc s
  | .gfpow7 rd ra rb => Sys2Proof.Machine.execGfpow7 rd ra rb s
  | .perm32 rd ra => Sys2Proof.Machine.execPerm32 rd ra s
  | .sbox rd ra t => Sys2Proof.Machine.execSbox rd ra t s
  | .roundf rd ra rb rc re => Sys2Proof.Machine.execRoundf rd ra rb rc re s
  | .roundk rd ra r => Sys2Proof.Machine.execRoundk rd ra r s
  | .xor rd ra rb => Sys2Proof.Machine.execXor rd ra rb s
  | .keyset ra rb => Sys2Proof.Machine.execKeyset ra rb s
  | .ksrd rd r j => Sys2Proof.Machine.execKsrd rd r j s
  | .enc ra rb => Sys2Proof.Machine.execEnc ra rb s
  | .dec ra rb => Sys2Proof.Machine.execDec ra rb s

end Sys2Proof.Machine
end

