-- ==== Sys2Proof/Machine/Engine.lean ====
section
/-! DEFINITION. The engine's step, and the step of whichever agent moves (spec/70_reset_and_hazards.md R296,
spec/60_exceptions.md R263). -/

namespace Sys2Proof.Machine

/-- `execute(w)` (R263): decode, ending with ILLEGAL where the word is refused, else the command's meaning. -/
def runWord (w : Word) (s : State) : Result :=
  match decode w with
  | .ok i => exec i s
  | .error _ => raiseError .illegal s

/-- `engine_step()` (R296). It is taken only while PEND is not empty; with PEND empty it leaves the state. -/
def engineStep (s : State) : Result :=
  match s.pend with
  | .command w => runWord w s
  | .build => .next s.buildDone
  | .empty => .next s

/-- The step of the agent whose turn it is (R296). -/
def takeTurn (s : State) : Result :=
  match s.turn with
  | .reset rest => .next (s.resetMove rest)
  | .access a rest => .next (s.serve a rest)
  | .engine => engineStep s
  | .idle => .next s

/-- The state in which the command word `w` has been written to CMD and the host makes no move, so that the next step is
the engine's and runs `w` (R29, R296; notes/assumptions/1.md). -/
def State.withCommand (s : State) (w : Word) : State :=
  { s.issue w with port := { s.port with todo := [] } }

end Sys2Proof.Machine
end

