-- ==== Sys2Proof/Safety.lean ====
section
/-! DEFINITION. The terms in which claims are stated: what a command's end leaves, what stays, the words that are ILLEGAL, and
the invariant of the machine. -/

namespace Sys2Proof.Machine

/-- The value of the `n` bits of `w` from bit `lo` up, by arithmetic (R8, R81). -/
def bitsAt (w : Word) (lo n : Nat) : Nat := w.toNat / 2 ^ lo % 2 ^ n

/-- The completion update of R262 with code `c`, and what no command touches: CMD and the host's side of the port. -/
def Completed (c : BitVec 4) (s t : State) : Prop :=
  t.err = c ∧ t.eflag = (s.eflag || c != 0) ∧ t.pend = .empty ∧ t.cmd = s.cmd ∧ t.port = s.port

/-- KS and KEYVALID are unchanged. -/
def KeyKept (s t : State) : Prop := t.ks = s.ks ∧ t.keyValid = s.keyValid

/-- Every data register but those of `written` is unchanged. -/
def RegsKept (written : List Reg) (s t : State) : Prop := ∀ r : Reg, r ∉ written → t.x[r] = s.x[r]

/-- `r` is a next state in which the command has ended with error `c` and written nothing else (R262, R264). -/
def EndsWith (c : BitVec 4) (r : Result) (s : State) : Prop :=
  ∃ t, r = .next t ∧ t.x = s.x ∧ KeyKept s t ∧ Completed c s t

/-- `r` is a next state in which the command has completed with code OK and written `v` to `x[rd]`, and nothing else but
the completion update. -/
def Wrote (rd : Reg) (v : Word) (r : Result) (s : State) : Prop :=
  ∃ t, r = .next t ∧ t.x[rd] = v ∧ RegsKept [rd] s t ∧ KeyKept s t ∧ Completed 0 s t

/-- As `Wrote`, for the two halves of a block written to `x[ra]` and `x[rb]` (R57). -/
def WroteBlock (ra rb : Reg) (b : Word × Word) (r : Result) (s : State) : Prop :=
  ∃ t, r = .next t ∧ t.x[ra] = b.1 ∧ t.x[rb] = b.2 ∧ RegsKept [ra, rb] s t ∧ KeyKept s t ∧ Completed 0 s t

/-- The block's own state is the same in `s` and `t`; the host's side of the port may differ. -/
def BlockKept (s t : State) : Prop := { t with port := s.port } = s

/-- The opcodes of R84 with their masks; each row's match value is its opcode in bits 31:24. -/
def maskTable : List (Nat × Word) :=
  [(0x00, 0xFFFFFFFF), (0x01, 0xFFFFF000), (0x02, 0xFFFFFE00), (0x03, 0xFFFFFFC0), (0x04, 0xFFF3FFC0), (0x05, 0xFFFF8000),
   (0x06, 0xFF0FFFC0), (0x07, 0xFFFFFE00), (0x10, 0xFFFFFE07), (0x11, 0xFF03FFF8), (0x20, 0xFFFFFE07), (0x21, 0xFFFFFE07)]

/-- The word's OP is undefined (R86). -/
def UndefinedOp (w : Word) : Prop := ∀ row ∈ maskTable, bitsAt w 24 8 ≠ row.1

/-- The word's OP is defined, and a bit under its mask outside OP is set (R85). -/
def NonzeroUnused (w : Word) : Prop := ∃ row ∈ maskTable, bitsAt w 24 8 = row.1 ∧ w &&& row.2 &&& 0x00FFFFFF ≠ 0

/-- KSRD with SEL = 3, or ENC or DEC with RA = RB (R87). -/
def BadValue (w : Word) : Prop :=
  (bitsAt w 24 8 = 0x11 ∧ bitsAt w 18 2 = 3) ∨
    ((bitsAt w 24 8 = 0x20 ∨ bitsAt w 24 8 = 0x21) ∧ bitsAt w 3 3 = bitsAt w 6 3)

/-- The causes of ILLEGAL (R261). -/
def IllegalWord (w : Word) : Prop := UndefinedOp w ∨ NonzeroUnused w ∨ BadValue w

/-- A command word with opcode `op` that fails the mask test ends with ILLEGAL (R85). -/
def IllegalOutside (op : Nat) (mask pattern : Word) : Prop :=
  ∀ (w : Word) (s : State), bitsAt w 24 8 = op → w &&& mask ≠ pattern → s.pend = .command w → EndsWith 1 (engineStep s) s

/-- The commands that read KS, and so fail with NOKEY while KEYVALID = 0 (R261, R263). -/
def readsKs : Instr → Bool
  | .roundk _ _ _ => true
  | .ksrd _ _ _ => true
  | .enc _ _ => true
  | .dec _ _ => true
  | .nop => false
  | .gfmul _ _ _ _ => false
  | .gfpow7 _ _ _ => false
  | .perm32 _ _ => false
  | .sbox _ _ _ => false
  | .roundf _ _ _ _ _ => false
  | .xor _ _ _ => false
  | .keyset _ _ => false

/-- The causes of OPERAND: a source register holds a value outside the command's domain (R261). -/
def OutOfDomain (s : State) : Instr → Prop
  | .gfmul _ ra rb rc => 0xFF#32 < s.x[ra] ∨ 0xFF#32 < s.x[rb] ∨ s.x[rc] < 0x100#32 ∨ 0x1FF#32 < s.x[rc]
  | .gfpow7 _ ra rb => 0xFF#32 < s.x[ra] ∨ s.x[rb] < 0x100#32 ∨ 0x1FF#32 < s.x[rb]
  | .sbox _ ra _ => 0x3FF#32 < s.x[ra]
  | .roundf _ _ rb rc _ => 0xFFFFF#32 < s.x[rb] ∨ 0xFFFFF#32 < s.x[rc]
  | .nop => False
  | .perm32 _ _ => False
  | .roundk _ _ _ => False
  | .xor _ _ _ => False
  | .keyset _ _ => False
  | .ksrd _ _ _ => False
  | .enc _ _ => False
  | .dec _ _ => False

/-- Commands one after another, each from the state the one before left; it stops where one stops. -/
def execAll : List Instr → State → Result
  | [], s => .next s
  | i :: rest, s =>
    match exec i s with
    | .next t => execAll rest t
    | .fault f => .fault f
    | .refused r => .refused r

/-- The 16 ROUNDK and 16 XOR commands of R165, in the order of R220: L in `ra`, R in `rb`, F's result in `rt`. -/
def roundByRound (ra rb rt : Reg) : List Instr :=
  (List.range 8).flatMap fun k =>
    [.roundk rt rb (Fin.ofNat 16 (2 * k)), .xor ra ra rt, .roundk rt ra (Fin.ofNat 16 (2 * k + 1)), .xor rb rb rt]

/-- The next move of the host is a reset. -/
def ResetNext (s : State) : Prop := ∃ p rest, s.port.todo = .reset p :: rest

/-- The block is busy and the engine's step is the only one enabled: the host has no move, or its access is not a STATUS read
and so is held (R62, R296). -/
def EngineToMove (s : State) : Prop :=
  s.busy = true ∧ (s.port.todo = [] ∨ ∃ a rest, s.port.todo = .access a :: rest ∧ (a.we = true ∨ a.addr ≠ 2))

/-- A STATUS read among the host's moves. -/
def HostMove.isPoll : HostMove → Bool
  | .access a => a.isStatusRead
  | .reset _ => false

/-- The run is over: the host has made its last move and PEND is empty (R303). -/
def Quiet (s : State) : Prop := s.port.todo = [] ∧ s.busy = false

/-- The invariant of the machine. Each clause is a statement of the spec about every state a run reaches. -/
structure State.Inv (s : State) : Prop where
  /-- Codes 4..15 are never produced (R28). -/
  errLegal : s.err ≤ 3#4
  /-- A nonzero ERR has set EFLAG (R27, R262). -/
  errFlagged : s.err ≠ 0 → s.eflag = true
  /-- KS holds its reset value until a KEYSET completes (R26, R32). -/
  keyUnset : s.keyValid = false → ∀ (r : Fin 16) (j : Fin 3), s.ks[r][j] = 0
  /-- CMD holds the word in PEND, the last one written (R29, R65). -/
  cmdHeld : ∀ w, s.pend = .command w → s.cmd = w
  /-- BUILD stands in PEND only after a reset that put it there, with everything else still at its reset value (R62, R293). -/
  buildFresh : s.pend = .build → Config.sboxBuildAtReset = true ∧ BlockKept State.reset s

end Sys2Proof.Machine
end

