-- ==== Sys2Proof/Certificates/Slice0/Obligations.lean ====
section
/-! DEFINITION. The statements for the provers, each from the spec's rules. -/

open Sys2Proof Sys2Proof.Machine

/-- The polynomial over GF(2) whose coefficient of x^i is bit i of `v` (R111). -/
noncomputable def Sys2Proof.bitPoly {n : Nat} (v : BitVec n) : Polynomial (ZMod 2) :=
  ∑ i ∈ Finset.range n, if v.getLsbD i then Polynomial.X ^ i else 0

/-! ## Encoding and decoding -/

/-- From R84 and R88: decoding the word of a well-formed command gives the command, with every operand at every value. -/
def Obligations.DecodeOfEncode : Prop := ∀ i : Instr, i.WellFormed → decode (encode i) = .ok i

/-- From R84, R85 and R88: a word that decodes is the one word of a well-formed command, so no bit of it is dropped and no
two words mean the same. -/
def Obligations.EncodeOfDecode : Prop := ∀ (w : Word) (i : Instr), decode w = .ok i → i.WellFormed ∧ encode i = w

/-- Sanity: words written out from the encodings of R81 and R84, one for each command (95_test_vectors.md). -/
def Obligations.WrittenWordsDecode : Prop :=
  decode 0x00000000 = .ok .nop ∧ decode 0x0100044F = .ok (.gfmul 7 1 1 2) ∧ decode 0x0200009B = .ok (.gfpow7 3 3 2) ∧
  decode 0x0300001B = .ok (.perm32 3 3) ∧ decode 0x040C0025 = .ok (.sbox 5 4 3) ∧
  decode 0x0500624F = .ok (.roundf 7 1 1 1 6) ∧ decode 0x06F00002 = .ok (.roundk 2 0 15) ∧
  decode 0x07000043 = .ok (.xor 3 0 1) ∧ decode 0x100000D0 = .ok (.keyset 2 3) ∧ decode 0x11F80004 = .ok (.ksrd 4 15 2) ∧
  decode 0x200000D0 = .ok (.enc 2 3) ∧ decode 0x21000160 = .ok (.dec 4 5)

/-- R85: a word whose OP is defined, with a nonzero unused field or RSV, ends with ILLEGAL; so do the rule's two examples. -/
def Obligations.NonzeroUnusedIsIllegal : Prop :=
  (∀ (w : Word) (s : State), NonzeroUnused w → s.pend = .command w → EndsWith 1 (engineStep s) s) ∧
  NonzeroUnused 0x00000001 ∧ NonzeroUnused 0x06008000

/-- R86: the OP values 0x08..0x0F, 0x12..0x1F and 0x22..0xFF end with ILLEGAL; they are 244 values, and no other OP value is
without a command. -/
def Obligations.UndefinedOpIsIllegal : Prop :=
  (∀ (w : Word) (s : State), s.pend = .command w →
    (0x08 ≤ bitsAt w 24 8 ∧ bitsAt w 24 8 ≤ 0x0F) ∨ (0x12 ≤ bitsAt w 24 8 ∧ bitsAt w 24 8 ≤ 0x1F) ∨
      0x22 ≤ bitsAt w 24 8 → EndsWith 1 (engineStep s) s) ∧
  ((List.range 256).filter fun op => (0x08 ≤ op ∧ op ≤ 0x0F) ∨ (0x12 ≤ op ∧ op ≤ 0x1F) ∨ 0x22 ≤ op).length = 244 ∧
  (∀ op : Nat, op < 256 → ¬((0x08 ≤ op ∧ op ≤ 0x0F) ∨ (0x12 ≤ op ∧ op ≤ 0x1F) ∨ 0x22 ≤ op) →
    ∃ (w : Word) (i : Instr), bitsAt w 24 8 = op ∧ decode w = .ok i)

/-- R87: KSRD with SEL = 3, and ENC or DEC with RA = RB, end with ILLEGAL even when the mask test of R84 passes; the check
needs no operand value, so it holds in every state. -/
def Obligations.ValueConstraintsAreIllegal : Prop :=
  (∀ (w : Word) (s : State), s.pend = .command w → w &&& 0xFF03FFF8 = 0x11000000 → bitsAt w 18 2 = 3 →
    EndsWith 1 (engineStep s) s) ∧
  (∀ (w : Word) (s : State), s.pend = .command w → w &&& 0xFFFFFE07 = 0x20000000 ∨ w &&& 0xFFFFFE07 = 0x21000000 →
    bitsAt w 3 3 = bitsAt w 6 3 → EndsWith 1 (engineStep s) s)

/-- A step runs the decoded command (from R62, R263, R296). In every busy state in which the engine is to move (the host has no
move, or its access is one that BUSY = 1 holds), the step is the engine's, whatever PEND holds: a command, a word that does not
decode, or BUILD. Where PEND holds a word that decodes to a command, that step is `exec` of the command; nothing is added around
it. The host's moves as a list in the state are the model's choice (log 3). -/
def Obligations.StepRunsDecodedCommand : Prop :=
  ∀ s : State, EngineToMove s →
    step s = engineStep s ∧ (∀ (w : Word) (i : Instr), s.pend = .command w → decode w = .ok i → step s = exec i s)

/-! ## GF(2^8) and the permutation -/

/-- The spec's own inference of R111 ("[derived: from rule R110 …]") from the loop it supplies "[from general knowledge, not
in source]": for every modulus with bit 8 set, `gf_mul` is the product of the polynomials modulo M(x); it is commutative and
associative, 0 gives 0 and 1 gives b. -/
def Obligations.GfMulIsPolynomialProduct : Prop :=
  ∀ m : BitVec 9, m.getLsbD 8 = true →
    (∀ a b : Byte, bitPoly (gfMul a b m) = (bitPoly a * bitPoly b) %ₘ bitPoly m) ∧
    (∀ a b : Byte, gfMul a b m = gfMul b a m) ∧
    (∀ b : Byte, gfMul 0 b m = 0 ∧ gfMul 1 b m = b) ∧
    (∀ a b c : Byte, gfMul (gfMul a b m) c m = gfMul a (gfMul b c m) m)

/-- From R112: `gf_pow7` is b^7 modulo M(x), by the chain b², b³, b⁶, b⁷; by the spec's own inference ("[derived: from rule
R111]") 0 gives 0 and 1 gives 1. -/
def Obligations.GfPow7IsSeventhPower : Prop :=
  ∀ m : BitVec 9, m.getLsbD 8 = true →
    (∀ b : Byte, bitPoly (gfPow7 b m) = bitPoly b ^ 7 %ₘ bitPoly m) ∧
    (∀ b t2 t3 t6 : Byte, t2 = gfMul b b m → t3 = gfMul b t2 m → t6 = gfMul t3 t3 m → gfPow7 b m = gfMul b t6 m) ∧
    gfPow7 0 m = 0 ∧ gfPow7 1 m = 1

/-- From R113 and the table of R114, which the spec supplies "[from general knowledge, not in source]": `perm32` moves bit i
to position POS[i], the 32 positions are distinct and cover 0..31, each PBOX entry has the one bit POS[i]; so, by the spec's
own inference ("[derived: from rule R113 and this table]"), `perm32` is a bijection, fixes 0 and all ones, and commutes with
XOR and OR. -/
def Obligations.Perm32MovesEachBit : Prop :=
  let pos : List Nat := [0, 7, 10, 13, 19, 21, 24, 30, 3, 5, 8, 14, 16, 23, 26, 29,
    2, 4, 9, 15, 17, 22, 27, 28, 1, 6, 11, 12, 18, 20, 25, 31]
  pbox = pos.map (fun p => 1#32 <<< p) ∧ pos.Nodup ∧ (∀ p, p < 32 → p ∈ pos) ∧
  (∀ (v : Word) (i : Nat), i < 32 → (perm32 v).getLsbD (pos.getD i 0) = v.getLsbD i) ∧
  Function.Bijective perm32 ∧ perm32 0 = 0 ∧ perm32 0xFFFFFFFF = 0xFFFFFFFF ∧
  (∀ v w : Word, perm32 (v ^^^ w) = perm32 v ^^^ perm32 w) ∧ (∀ v w : Word, perm32 (v ||| w) = perm32 v ||| perm32 w)

/-- R115: GFMUL, whole, its example included: its words, its result for operands in range, OPERAND outside, and its corner
cases. -/
def Obligations.GfmulCommand : Prop :=
  (∀ (w : Word) (rd ra rb rc : Reg), w &&& 0xFFFFF000 = 0x01000000 → rd.val = bitsAt w 0 3 → ra.val = bitsAt w 3 3 →
    rb.val = bitsAt w 6 3 → rc.val = bitsAt w 9 3 → decode w = .ok (.gfmul rd ra rb rc)) ∧
  IllegalOutside 0x01 0xFFFFF000 0x01000000 ∧
  (∀ (rd ra rb rc : Reg) (s : State), s.x[ra] ≤ 0xFF#32 → s.x[rb] ≤ 0xFF#32 → 0x100#32 ≤ s.x[rc] → s.x[rc] ≤ 0x1FF#32 →
    Wrote rd ((gfMul (s.x[ra].setWidth 8) (s.x[rb].setWidth 8) (s.x[rc].setWidth 9)).setWidth 32)
      (exec (.gfmul rd ra rb rc) s) s) ∧
  (∀ (rd ra rb rc : Reg) (s : State),
    0xFF#32 < s.x[ra] ∨ 0xFF#32 < s.x[rb] ∨ s.x[rc] < 0x100#32 ∨ 0x1FF#32 < s.x[rc] →
    EndsWith 3 (exec (.gfmul rd ra rb rc) s) s) ∧
  (∀ (b : Byte) (m : BitVec 9), m.getLsbD 8 = true → gfMul 0 b m = 0 ∧ gfMul b 0 m = 0 ∧ gfMul 1 b m = b) ∧
  gfMul 0x80 0x80 0x100 = 0 ∧ gfMul 0x02 0x80 0x14D = 0x4D

/-- R116: GFPOW7, whole, its example included: its words, its result for operands in range, OPERAND outside, and its corner
cases. -/
def Obligations.Gfpow7Command : Prop :=
  (∀ (w : Word) (rd ra rb : Reg), w &&& 0xFFFFFE00 = 0x02000000 → rd.val = bitsAt w 0 3 → ra.val = bitsAt w 3 3 →
    rb.val = bitsAt w 6 3 → decode w = .ok (.gfpow7 rd ra rb)) ∧
  IllegalOutside 0x02 0xFFFFFE00 0x02000000 ∧
  (∀ (rd ra rb : Reg) (s : State), s.x[ra] ≤ 0xFF#32 → 0x100#32 ≤ s.x[rb] → s.x[rb] ≤ 0x1FF#32 →
    Wrote rd ((gfPow7 (s.x[ra].setWidth 8) (s.x[rb].setWidth 9)).setWidth 32) (exec (.gfpow7 rd ra rb) s) s) ∧
  (∀ (rd ra rb : Reg) (s : State), 0xFF#32 < s.x[ra] ∨ s.x[rb] < 0x100#32 ∨ 0x1FF#32 < s.x[rb] →
    EndsWith 3 (exec (.gfpow7 rd ra rb) s) s) ∧
  (∀ m : BitVec 9, m.getLsbD 8 = true → gfPow7 0 m = 0 ∧ gfPow7 1 m = 1 ∧ gfPow7 0x02 m = 0x80) ∧
  gfPow7 0x03 0x14D = 0xFF

/-- R117: PERM32, whole, its example included: its words, its result for every operand, and its fixed points. -/
def Obligations.Perm32Command : Prop :=
  (∀ (w : Word) (rd ra : Reg), w &&& 0xFFFFFFC0 = 0x03000000 → rd.val = bitsAt w 0 3 → ra.val = bitsAt w 3 3 →
    decode w = .ok (.perm32 rd ra)) ∧
  IllegalOutside 0x03 0xFFFFFFC0 0x03000000 ∧
  (∀ (rd ra : Reg) (s : State), Wrote rd (perm32 s.x[ra]) (exec (.perm32 rd ra) s) s) ∧
  (∀ v : Word, (perm32 v).getLsbD 0 = v.getLsbD 0 ∧ (perm32 v).getLsbD 31 = v.getLsbD 31) ∧
  perm32 0 = 0 ∧ perm32 0xFFFFFFFF = 0xFFFFFFFF ∧ perm32 0x000000FF = 0x41282481 ∧ perm32 0x12345678 = 0x056F2360

/-! ## The S-box ROM -/

/-- The spec's own inference "Each is an irreducible polynomial of degree 8 over GF(2) [derived: …]" (42_sbox.md §1), in the
form that the loop shows: every modulus has bit 8 set, and under it a product is 0 only where a factor is 0. -/
def Obligations.SboxModuliHaveNoZeroDivisors : Prop :=
  ∀ t row : Fin 4, smod[t][row].getLsbD 8 = true ∧
    ∀ a b : Byte, gfMul a b smod[t][row] = 0 → a = 0 ∨ b = 0

/-- R143: the entry of table t at index i, from the index's column and row (R142) and the two constant matrices (R140, R141).
-/
def Obligations.SboxContents : Prop :=
  let modulus : List (List (BitVec 9)) :=
    [[333, 313, 505, 369], [379, 375, 319, 391], [361, 445, 451, 397], [397, 425, 395, 505]]
  let constant : List (List Byte) :=
    [[0x83, 0x85, 0x9B, 0xCD], [0xCC, 0xA7, 0xAD, 0x41], [0x4B, 0x2E, 0xD4, 0x33], [0xEA, 0xCB, 0x2E, 0x04]]
  ∀ (t : Fin 4) (i : BitVec 10) (col row : Nat), col = i.toNat / 2 % 256 → row = 2 * (i.toNat / 512) + i.toNat % 2 →
    sboxEntry t i = perm32
      ((gfPow7 (BitVec.ofNat 8 col ^^^ (constant.getD t []).getD row 0) ((modulus.getD t []).getD row 0)).setWidth 32
        <<< (24 - 8 * t.val))

/-- The spec's own inference of 42_sbox.md §2 ("[derived: from rule R143 and `41_gf_perm.md` rule R114]"): every entry of
table t lies inside MASK[t]; the four masks are pairwise disjoint and cover all 32 bits; so an OR of one entry of each table
is their XOR. -/
def Obligations.SboxTablesAreDisjoint : Prop :=
  let mask : List Word := [0x82141842, 0x18428214, 0x24814128, 0x41282481]
  (∀ t : Fin 4, mask.getD t 0 = perm32 (0xFF#32 <<< (24 - 8 * t.val))) ∧
  (∀ (t : Fin 4) (i : BitVec 10), sboxEntry t i &&& ~~~(mask.getD t 0) = 0) ∧
  (∀ t u : Fin 4, t ≠ u → mask.getD t 0 &&& mask.getD u 0 = 0) ∧ mask.foldl (· ||| ·) 0 = 0xFFFFFFFF ∧
  (∀ i0 i1 i2 i3 : BitVec 10, sboxEntry 0 i0 ||| sboxEntry 1 i1 ||| sboxEntry 2 i2 ||| sboxEntry 3 i3 =
    sboxEntry 0 i0 ^^^ sboxEntry 1 i1 ^^^ sboxEntry 2 i2 ^^^ sboxEntry 3 i3)

/-- R146: SBOX, whole, its example included: its words, the entry it reads for an index up to 0x3FF, and OPERAND above. -/
def Obligations.SboxCommand : Prop :=
  (∀ (w : Word) (rd ra : Reg) (t : Fin 4), w &&& 0xFFF3FFC0 = 0x04000000 → rd.val = bitsAt w 0 3 → ra.val = bitsAt w 3 3 →
    t.val = bitsAt w 18 2 → decode w = .ok (.sbox rd ra t)) ∧
  IllegalOutside 0x04 0xFFF3FFC0 0x04000000 ∧
  (∀ (rd ra : Reg) (t : Fin 4) (s : State), s.x[ra] ≤ 0x3FF#32 →
    Wrote rd (sboxEntry t (s.x[ra].setWidth 10)) (exec (.sbox rd ra t) s) s) ∧
  (∀ (rd ra : Reg) (t : Fin 4) (s : State), 0x3FF#32 < s.x[ra] → EndsWith 3 (exec (.sbox rd ra t) s) s) ∧
  sboxEntry 0 0 = 0x00040842 ∧ sboxEntry 3 0x155 = 0x01280481

/-! ## The round function -/

/-- From 43_round.md §1, whose positions the spec supplies "[from general knowledge, not in source]" and whose count it marks
"[derived: from the formula]": which bit of p each bit of tl and tr is, the equivalent form with a rotation and a shift, and
that every bit of p appears, eight of them twice. -/
def Obligations.ExpansionOfHalfBlock : Prop :=
  let left : List Nat := [16, 17, 18, 19, 20, 21, 22, 23, 24, 25, 24, 25, 26, 27, 28, 29, 30, 31, 0, 1]
  let right : List Nat := [0, 1, 2, 3, 4, 5, 6, 7, 8, 9, 8, 9, 10, 11, 12, 13, 14, 15, 16, 17]
  (∀ (p : Word) (j : Nat), j < 20 → (expandLeft p).getLsbD j = p.getLsbD (left.getD j 0) ∧
    (expandRight p).getLsbD j = p.getLsbD (right.getD j 0)) ∧
  (∀ p : Word,
    expandLeft p = ((p.extractLsb' 16 10).setWidth 32 ||| (p.rotateRight 14 &&& 0xFFC00)).setWidth 20 ∧
    expandRight p = ((p.extractLsb' 0 10).setWidth 32 ||| (p <<< 2 &&& 0xFFC00)).setWidth 20) ∧
  (∀ i, i < 32 → (left ++ right).count i = if i ∈ [25, 24, 9, 8, 17, 16, 1, 0] then 2 else 1)

/-- From R161, in the form the spec marks "[derived: from this rule's pseudocode]": bit by bit, sk2 chooses whether tl and tr
are kept or exchanged, then sk0 and sk1 are applied. -/
def Obligations.KeyMixingSwapsBySk2 : Prop :=
  ∀ (tl tr sk0 sk1 sk2 : Subkey) (j : Nat), j < 20 →
    (keyMix tl tr #v[sk0, sk1, sk2]).1.getLsbD j =
      ((if sk2.getLsbD j then tr.getLsbD j else tl.getLsbD j) ^^ sk0.getLsbD j) ∧
    (keyMix tl tr #v[sk0, sk1, sk2]).2.getLsbD j =
      ((if sk2.getLsbD j then tl.getLsbD j else tr.getLsbD j) ^^ sk1.getLsbD j)

/-- From R162 and R163: F is the OR of the four lookups of the mixed values, each index taken by arithmetic, and equally, by
the spec's own inference ("[derived: from `42_sbox.md` rule R145]"), their XOR. -/
def Obligations.RoundFunctionLookups : Prop :=
  ∀ (p : Word) (sk0 sk1 sk2 al ar : Subkey), (al, ar) = keyMix (expandLeft p) (expandRight p) #v[sk0, sk1, sk2] →
    roundF p #v[sk0, sk1, sk2] =
      sboxEntry 0 (BitVec.ofNat 10 (al.toNat / 1024)) ||| sboxEntry 1 (BitVec.ofNat 10 (al.toNat % 1024)) |||
        sboxEntry 2 (BitVec.ofNat 10 (ar.toNat / 1024)) ||| sboxEntry 3 (BitVec.ofNat 10 (ar.toNat % 1024)) ∧
    roundF p #v[sk0, sk1, sk2] =
      sboxEntry 0 (BitVec.ofNat 10 (al.toNat / 1024)) ^^^ sboxEntry 1 (BitVec.ofNat 10 (al.toNat % 1024)) ^^^
        sboxEntry 2 (BitVec.ofNat 10 (ar.toNat / 1024)) ^^^ sboxEntry 3 (BitVec.ofNat 10 (ar.toNat % 1024))

/-- R164: ROUNDF, whole, its example included: its words, its result where sk0 and sk1 are 20 bits whatever bits 31:20 of sk2
are, and OPERAND where they are not; KEYVALID does not matter. -/
def Obligations.RoundfCommand : Prop :=
  (∀ (w : Word) (rd ra rb rc re : Reg), w &&& 0xFFFF8000 = 0x05000000 → rd.val = bitsAt w 0 3 → ra.val = bitsAt w 3 3 →
    rb.val = bitsAt w 6 3 → rc.val = bitsAt w 9 3 → re.val = bitsAt w 12 3 → decode w = .ok (.roundf rd ra rb rc re)) ∧
  IllegalOutside 0x05 0xFFFF8000 0x05000000 ∧
  (∀ (rd ra rb rc re : Reg) (s : State), s.x[rb] ≤ 0xFFFFF#32 → s.x[rc] ≤ 0xFFFFF#32 →
    Wrote rd (roundF s.x[ra] #v[s.x[rb].setWidth 20, s.x[rc].setWidth 20, (s.x[re] &&& 0xFFFFF).setWidth 20])
      (exec (.roundf rd ra rb rc re) s) s) ∧
  (∀ (rd ra rb rc re : Reg) (s : State), 0xFFFFF#32 < s.x[rb] ∨ 0xFFFFF#32 < s.x[rc] →
    EndsWith 3 (exec (.roundf rd ra rb rc re) s) s) ∧
  (∀ tl tr sk0 sk1 : Subkey, keyMix tl tr #v[sk0, sk1, 0] = (tl ^^^ sk0, tr ^^^ sk1) ∧
    keyMix tl tr #v[sk0, sk1, 0xFFFFF] = (tr ^^^ sk0, tl ^^^ sk1)) ∧
  roundF 0 #v[0, 0, 0] = 0x642E6D6E

/-- R165: ROUNDK, whole, its example included: its words, its result with a key, NOKEY without, and that one ENC equals 16
ROUNDK commands with 16 XOR commands in the order of R220. -/
def Obligations.RoundkCommand : Prop :=
  (∀ (w : Word) (rd ra : Reg) (r : Fin 16), w &&& 0xFF0FFFC0 = 0x06000000 → rd.val = bitsAt w 0 3 → ra.val = bitsAt w 3 3 →
    r.val = bitsAt w 20 4 → decode w = .ok (.roundk rd ra r)) ∧
  IllegalOutside 0x06 0xFF0FFFC0 0x06000000 ∧
  (∀ (rd ra : Reg) (r : Fin 16) (s : State), s.keyValid = true →
    Wrote rd (roundF s.x[ra] #v[s.ks[r][0], s.ks[r][1], s.ks[r][2]]) (exec (.roundk rd ra r) s) s) ∧
  (∀ (rd ra : Reg) (r : Fin 16) (s : State), s.keyValid = false → EndsWith 2 (exec (.roundk rd ra r) s) s) ∧
  (∀ (ra rb rt : Reg) (s : State), ra ≠ rb → rt ≠ ra → rt ≠ rb → s.keyValid = true →
    ∃ t, execAll (roundByRound ra rb rt) s = .next t ∧ (t.x[rb], t.x[ra]) = encrypt s.ks s.x[ra] s.x[rb]) ∧
  roundF 0x9A621D72 (keySchedule (seedOf 0x52FDFC07 0x2182654F))[0] = 0x85ECC6FE

/-! ## The key schedule -/

/-- The loops of R190-R193 in closed form (the spec's own inference "bit 19 is the first bit extracted for it and bit 0 the
last [derived: from rule R192]" is part of it): bit 19 − (4m + k) of subkey c of round r is bit n mod 16 of the loaded
register (KEYROT[r] + k) mod 4, complemented once for each full turn of 16, where n = 15r + 3m + c counts the rotations
before it. The registers are loaded in reverse order of the seed's 16-bit words and carry over from round 7 to round 8. -/
def Obligations.KeyScheduleClosedForm : Prop :=
  let keyrot : List Nat := [0, 1, 2, 3, 2, 1, 3, 0, 1, 3, 2, 0, 3, 1, 0, 2]
  ∀ (hi lo : Word) (r : Fin 16) (c : Fin 3) (m k n q : Nat), m < 5 → k < 4 → n = 15 * r.val + 3 * m + c.val →
    q = (keyrot.getD r 0 + k) % 4 →
    (keySchedule (seedOf hi lo))[r][c].getLsbD (19 - (4 * m + k)) =
      (((hi ++ lo : BitVec 64)).getLsbD (16 * q + n % 16) ^^ decide (n / 16 % 2 = 1))

/-- The spec's own inference of 44_key_schedule.md §2 ("[derived: from rules R192 and R193]"): each build rotates every
register 15 times a round; 16 rotations complement a register and 32 restore it; so the whole schedule leaves the complement
of what was loaded. -/
def Obligations.RotatingRegistersEndComplemented : Prop :=
  (∀ (kb : RotRegs) (ks : Schedule) (rot : List (Fin 4)) (n : Nat) (q : Fin 4),
    (buildHalf kb ks rot n).1[q] = rotateNot^[15 * rot.length] kb[q]) ∧
  keyrotLow.length = 8 ∧ keyrotHigh.length = 8 ∧
  (∀ v : BitVec 16, rotateNot^[16] v = ~~~v ∧ rotateNot^[32] v = v) ∧
  (∀ (kb : RotRegs) (q : Fin 4), (buildSchedule kb).1[q] = ~~~kb[q])

/-- R196: KEYSET, whole, its example included: its words, and in every state and for every seed the whole schedule written
and KEYVALID set, no data register changed; RA = RB loads hi twice; the all-zero seed has all-zero first and last rounds. -/
def Obligations.KeysetCommand : Prop :=
  (∀ (w : Word) (ra rb : Reg), w &&& 0xFFFFFE07 = 0x10000000 → ra.val = bitsAt w 3 3 → rb.val = bitsAt w 6 3 →
    decode w = .ok (.keyset ra rb)) ∧
  IllegalOutside 0x10 0xFFFFFE07 0x10000000 ∧
  (∀ (ra rb : Reg) (s : State) (s0 s1 s2 s3 s4 s5 s6 s7 : Byte), s.x[ra] = s0 ++ s1 ++ s2 ++ s3 →
    s.x[rb] = s4 ++ s5 ++ s6 ++ s7 →
    ∃ t, exec (.keyset ra rb) s = .next t ∧ t.ks = keySchedule #v[s0, s1, s2, s3, s4, s5, s6, s7] ∧ t.keyValid = true ∧
      t.x = s.x ∧ Completed 0 s t) ∧
  (∀ j : Fin 3, (keySchedule #v[0, 0, 0, 0, 0, 0, 0, 0])[0][j] = 0 ∧ (keySchedule #v[0, 0, 0, 0, 0, 0, 0, 0])[15][j] = 0) ∧
  (keySchedule #v[0x52, 0xFD, 0xFC, 0x07, 0x21, 0x82, 0x65, 0x4F])[0] = #v[0xB9913, 0xE15AE, 0xB1C2B] ∧
  (keySchedule #v[0x52, 0xFD, 0xFC, 0x07, 0x21, 0x82, 0x65, 0x4F])[15] = #v[0xB45AB, 0xE438E, 0x664C8]

/-- R197: KSRD, whole, its example included: its words (SEL = 3 is ILLEGAL, before NOKEY), its result with a key, always with
bits 31:20 zero, and NOKEY without. -/
def Obligations.KsrdCommand : Prop :=
  (∀ (w : Word) (rd : Reg) (r : Fin 16) (j : Fin 3), w &&& 0xFF03FFF8 = 0x11000000 → rd.val = bitsAt w 0 3 →
    r.val = bitsAt w 20 4 → j.val = bitsAt w 18 2 → decode w = .ok (.ksrd rd r j)) ∧
  IllegalOutside 0x11 0xFF03FFF8 0x11000000 ∧
  (∀ (w : Word) (s : State), bitsAt w 24 8 = 0x11 → bitsAt w 18 2 = 3 → s.pend = .command w →
    EndsWith 1 (engineStep s) s) ∧
  (∀ (rd : Reg) (r : Fin 16) (j : Fin 3) (s : State), s.keyValid = true →
    Wrote rd (0#12 ++ s.ks[r][j]) (exec (.ksrd rd r j) s) s) ∧
  (∀ (rd : Reg) (r : Fin 16) (j : Fin 3) (s : State), s.keyValid = false → EndsWith 2 (exec (.ksrd rd r j) s) s) ∧
  0#12 ++ (keySchedule (seedOf 0x52FDFC07 0x2182654F))[15][2] = 0x000664C8#32

/-! ## The block cipher -/

/-- R220: encrypt is eight loop steps, each using the half the previous one produced, rounds 2k and 2k+1 in step k, and its
output is the halves swapped. -/
def Obligations.EncryptRecurrence : Prop :=
  ∀ (ks : Schedule) (l r : Nat → Word),
    (∀ k : Fin 8, l (k + 1) = l k ^^^ roundF (r k) ks[2 * k.val] ∧ r (k + 1) = r k ^^^ roundF (l (k + 1)) ks[2 * k.val + 1]) →
    encrypt ks (l 0) (r 0) = (r 8, l 8)

/-- R221: decrypt is the same with the rounds in reverse order, 15 − 2k and then 14 − 2k in step k. -/
def Obligations.DecryptRecurrence : Prop :=
  ∀ (ks : Schedule) (l r : Nat → Word),
    (∀ k : Fin 8, l (k + 1) = l k ^^^ roundF (r k) ks[15 - 2 * k.val] ∧
      r (k + 1) = r k ^^^ roundF (l (k + 1)) ks[14 - 2 * k.val]) →
    decrypt ks (l 0) (r 0) = (r 8, l 8)

/-- The document's invariant, which the spec infers ("[derived: from rules R220 and R221]"): decrypt inverts encrypt and
encrypt inverts decrypt, for every KS, not only those a KEYSET produces. -/
def Obligations.DecryptInvertsEncrypt : Prop :=
  ∀ (ks : Schedule) (l r : Word),
    decrypt ks (encrypt ks l r).1 (encrypt ks l r).2 = (l, r) ∧ encrypt ks (decrypt ks l r).1 (decrypt ks l r).2 = (l, r)

/-- R223: ENC, whole, its example included: its words, its result with a key, NOKEY without, and ILLEGAL, before NOKEY, for
RA = RB. -/
def Obligations.EncCommand : Prop :=
  (∀ (w : Word) (ra rb : Reg), w &&& 0xFFFFFE07 = 0x20000000 → ra.val = bitsAt w 3 3 → rb.val = bitsAt w 6 3 → ra ≠ rb →
    decode w = .ok (.enc ra rb)) ∧
  IllegalOutside 0x20 0xFFFFFE07 0x20000000 ∧
  (∀ (w : Word) (s : State), bitsAt w 24 8 = 0x20 → bitsAt w 3 3 = bitsAt w 6 3 → s.pend = .command w →
    EndsWith 1 (engineStep s) s) ∧
  (∀ (ra rb : Reg) (s : State), ra ≠ rb → s.keyValid = true →
    WroteBlock ra rb (encrypt s.ks s.x[ra] s.x[rb]) (exec (.enc ra rb) s) s) ∧
  (∀ (ra rb : Reg) (s : State), ra ≠ rb → s.keyValid = false → EndsWith 2 (exec (.enc ra rb) s) s) ∧
  encrypt (keySchedule (seedOf 0x52FDFC07 0x2182654F)) 0x163F5F0F 0x9A621D72 = (0x1FFFCD22, 0xD2488A39)

/-- R224: DEC, whole, its example included: its words, its result with a key, NOKEY without, ILLEGAL for RA = RB, and that it
undoes ENC. -/
def Obligations.DecCommand : Prop :=
  (∀ (w : Word) (ra rb : Reg), w &&& 0xFFFFFE07 = 0x21000000 → ra.val = bitsAt w 3 3 → rb.val = bitsAt w 6 3 → ra ≠ rb →
    decode w = .ok (.dec ra rb)) ∧
  IllegalOutside 0x21 0xFFFFFE07 0x21000000 ∧
  (∀ (w : Word) (s : State), bitsAt w 24 8 = 0x21 → bitsAt w 3 3 = bitsAt w 6 3 → s.pend = .command w →
    EndsWith 1 (engineStep s) s) ∧
  (∀ (ra rb : Reg) (s : State), ra ≠ rb → s.keyValid = true →
    WroteBlock ra rb (decrypt s.ks s.x[ra] s.x[rb]) (exec (.dec ra rb) s) s) ∧
  (∀ (ra rb : Reg) (s : State), ra ≠ rb → s.keyValid = false → EndsWith 2 (exec (.dec ra rb) s) s) ∧
  (∀ (ra rb : Reg) (s : State), ra ≠ rb → s.keyValid = true →
    ∃ t u, exec (.enc ra rb) s = .next t ∧ exec (.dec ra rb) t = .next u ∧ u.x = s.x) ∧
  decrypt (keySchedule (seedOf 0x52FDFC07 0x2182654F)) 0x1FFFCD22 0xD2488A39 = (0x163F5F0F, 0x9A621D72)

/-! ## Utility commands -/

/-- R250: NOP, whole, its example included: 0x00000000 is its one word, it changes no data state, clears ERR and leaves
EFLAG. -/
def Obligations.NopCommand : Prop :=
  decode 0x00000000 = .ok .nop ∧ IllegalOutside 0x00 0xFFFFFFFF 0x00000000 ∧
  (∀ s : State, ∃ t, exec .nop s = .next t ∧ t.x = s.x ∧ KeyKept s t ∧ Completed 0 s t ∧ t.eflag = s.eflag) ∧
  (∀ s : State, s.status = 0x00000106 →
    ∃ t, exec .nop { s with cmd := 0, pend := .command 0 } = .next t ∧ t.status = 0x00000006)

/-- R251 and R92: XOR, whole, its example included: its words, its result for every operand; with RA = RB it writes 0, which
is `CLR rd`. -/
def Obligations.XorCommand : Prop :=
  (∀ (w : Word) (rd ra rb : Reg), w &&& 0xFFFFFE00 = 0x07000000 → rd.val = bitsAt w 0 3 → ra.val = bitsAt w 3 3 →
    rb.val = bitsAt w 6 3 → decode w = .ok (.xor rd ra rb)) ∧
  IllegalOutside 0x07 0xFFFFFE00 0x07000000 ∧
  (∀ (rd ra rb : Reg) (s : State), Wrote rd (s.x[ra] ^^^ s.x[rb]) (exec (.xor rd ra rb) s) s) ∧
  (∀ (rd ra : Reg) (s : State), Wrote rd 0 (exec (.xor rd ra ra) s) s) ∧ encode (.xor 6 6 6) = 0x070001B6 ∧
  decode 0x07000043 = .ok (.xor 3 0 1) ∧ 0xAA#32 ^^^ 0xCB#32 = 0x61

/-! ## Completion and errors -/

/-- R262: whatever word PEND holds, the engine step ends the command with exactly one code 0..3 and makes the
completion update; with a code other than 0 nothing else changes. -/
def Obligations.EveryCommandEndsWithOneCode : Prop :=
  ∀ (s : State) (w : Word), s.pend = .command w →
    ∃ t, engineStep s = .next t ∧ t.err ≤ 3#4 ∧ Completed t.err s t ∧ (t.err ≠ 0 → t.x = s.x ∧ KeyKept s t)

/-- R261, R263: which code a command ends with: ILLEGAL for exactly the words of R85-R87; else NOKEY for a command that reads
KS while KEYVALID = 0; else OPERAND for a source register outside the command's domain; else OK; never a code 4..15. -/
def Obligations.CodeCausesAndPriority : Prop :=
  ∀ (s : State) (w : Word), s.pend = .command w →
    (∃ t, engineStep s = .next t ∧ t.err ≤ 3#4) ∧ (IllegalWord w → EndsWith 1 (engineStep s) s) ∧
    (¬IllegalWord w → ∃ i, decode w = .ok i ∧ engineStep s = exec i s ∧
      (readsKs i = true ∧ s.keyValid = false → EndsWith 2 (exec i s) s) ∧
      (OutOfDomain s i → EndsWith 3 (exec i s) s) ∧
      (¬(readsKs i = true ∧ s.keyValid = false) → ¬OutOfDomain s i → ∃ t, exec i s = .next t ∧ Completed 0 s t) ∧
      ¬(readsKs i = true ∧ OutOfDomain s i))

/-- R27: EFLAG is set by a command that completes with ERR ≠ 0, and nothing but reset clears it. -/
def Obligations.EflagIsSticky : Prop :=
  (∀ (s t : State) (w : Word), s.pend = .command w → engineStep s = .next t → t.err ≠ 0 → t.eflag = true) ∧
  (∀ s t : State, step s = .next t → s.eflag = true → t.eflag = true ∨ ResetNext s) ∧
  (∀ s t : State, step s = .next t → t.eflag = true → s.eflag = true ∨ t.err ≠ 0)

/-- From R26 and R32: KS and KEYVALID change only when a KEYSET completes, which leaves KEYVALID = 1, or at reset. -/
def Obligations.OnlyKeysetWritesKey : Prop :=
  ∀ s t : State, step s = .next t → ¬KeyKept s t →
    (∃ w ra rb, s.pend = .command w ∧ decode w = .ok (.keyset ra rb) ∧ t.keyValid = true) ∨ ResetNext s

/-- From R26 and R32 (U13): while KEYVALID = 0, KS cannot be observed. Two states that differ in KS only step to states that
differ in KS only, and not even there once a KEYSET has completed. -/
def Obligations.UnsetKeyScheduleIsUnobservable : Prop :=
  ∀ (s : State) (k : Schedule), s.keyValid = false →
    ∃ t k', step s = .next t ∧ step { s with ks := k } = .next { t with ks := k' } ∧ (t.keyValid = true → k' = t.ks)

/-! ## STATUS, the bus and the hold -/

/-- From R24, R25 and R35: the layout of the STATUS word: BUSY, which is 1 exactly when PEND is not empty, KEYVALID, EFLAG,
ERR, and zeros elsewhere. -/
def Obligations.StatusLayout : Prop :=
  ∀ s : State, s.status.getLsbD 0 = s.busy ∧ (s.busy = true ↔ s.pend ≠ .empty) ∧ s.status.getLsbD 1 = s.keyValid ∧
    s.status.getLsbD 2 = s.eflag ∧ bitsAt s.status 3 5 = 0 ∧ bitsAt s.status 8 4 = s.err.toNat ∧ bitsAt s.status 12 20 = 0

/-- R54: accesses that are neither held nor refused. A read of each word slot returns what the map says and changes nothing of
the block; a CMD write stores all 32 bits in CMD and PEND and sets BUSY; a write of Rn replaces x[n] only. Each is answered OK. -/
def Obligations.BusReadsAndWrites : Prop :=
  (∀ (s : State) (a : Access) (rest : List HostMove), s.busy = false → s.port.todo = .access a :: rest → a.we = false →
    a.be = 0b1111 → a.addr.toNat < 12 →
    ∃ t v, step s = .next t ∧ BlockKept s t ∧ t.port.todo = rest ∧
      t.port.answers = { err := false, rdata := some v } :: s.port.answers ∧
      (a.addr = 0 → v = 0x49434531) ∧ (a.addr = 1 → v = 0x00000008) ∧
      (a.addr = 2 → v = 0#20 ++ s.err ++ 0#5 ++ BitVec.ofBool s.eflag ++ BitVec.ofBool s.keyValid ++ BitVec.ofBool s.busy) ∧
      (a.addr = 3 → v = s.cmd) ∧ (∀ n : Reg, a.addr.toNat = n.val + 4 → v = s.x[n])) ∧
  (∀ (s : State) (a : Access) (rest : List HostMove), s.busy = false → s.port.todo = .access a :: rest → a.we = true →
    a.be = 0b1111 →
    (a.addr = 3 → ∃ t answer, step s = .next t ∧ BlockKept { s with cmd := a.wdata, pend := .command a.wdata } t ∧
      t.busy = true ∧ t.port.todo = rest ∧ t.port.answers = answer :: s.port.answers ∧ answer.err = false) ∧
    (∀ n : Reg, a.addr.toNat = n.val + 4 → ∃ t answer, step s = .next t ∧ t.x[n] = a.wdata ∧ RegsKept [n] s t ∧
      BlockKept { s with x := t.x } t ∧ t.port.todo = rest ∧ t.port.answers = answer :: s.port.answers ∧
      answer.err = false))

/-- R55: partial byte enables, a reserved offset, or a write to ID, BLKSIZE or STATUS is answered with ERROR, with rdata 0 on a
read, and changes no state of the block, STATUS included; the check comes only after any hold has ended. (A STATUS read with
partial byte enables while BUSY = 1, which no hold reaches, is in `BusyHoldsAccesses`.) -/
def Obligations.BusErrors : Prop :=
  (∀ (s : State) (a : Access) (rest : List HostMove), s.busy = false → s.port.todo = .access a :: rest →
    a.be ≠ 0b1111 ∨ 12 ≤ a.addr.toNat ∨ (a.we = true ∧ a.addr.toNat < 3) →
    ∃ t answer, step s = .next t ∧ BlockKept s t ∧ t.status = s.status ∧ t.port.todo = rest ∧
      t.port.answers = answer :: s.port.answers ∧ answer.err = true ∧ (a.we = false → answer.rdata = some 0x00000000)) ∧
  (∀ (s : State) (a : Access) (rest : List HostMove), s.busy = true → s.port.todo = .access a :: rest →
    a.we = true ∨ a.addr ≠ 2 → step s = engineStep s)

/-- From R62 and R296: while BUSY = 1, an access other than a STATUS read is held: the step is the engine's, after which BUSY is
0 and the access still stands, unanswered. A STATUS read is answered with BUSY = 1, or the engine's step comes before it; which
of the two is the free value of log 4, and the statement holds for every value of it. A read of STATUS with partial byte enables
is not held either (the model's reading of R62 and R55, log 8): it is answered ERROR with rdata 0 and changes nothing of the
block, or the engine's step comes before it. -/
def Obligations.BusyHoldsAccesses : Prop :=
  ∀ (s : State) (a : Access) (rest : List HostMove), s.busy = true → s.port.todo = .access a :: rest →
    (∃ t, engineStep s = .next t ∧ t.port = s.port ∧ t.busy = false) ∧
    (a.we = true ∨ a.addr ≠ 2 → step s = engineStep s) ∧
    (a.we = false → a.addr = 2 → a.be = 0b1111 →
      (∃ t v, step s = .next t ∧ BlockKept s t ∧ t.port.todo = rest ∧ v.getLsbD 0 = true ∧ v = s.status ∧
        t.port.answers = { err := false, rdata := some v } :: s.port.answers) ∨
      step s = engineStep s) ∧
    (a.we = false → a.addr = 2 → a.be ≠ 0b1111 →
      (∃ t, step s = .next t ∧ BlockKept s t ∧ t.port.todo = rest ∧
        t.port.answers = { err := true, rdata := some 0x00000000 } :: s.port.answers) ∨
      step s = engineStep s)

/-- From R7 and R52, with ICE_BASE left open (log 6): ICE_BASE is 64-byte aligned, word n of the window stands at ICE_BASE +
4n, and no address outside the 64 bytes reaches the block. -/
def Obligations.WindowAddresses : Prop :=
  Config.iceBase % 64 = 0 ∧ (∀ n : Fin 16, windowSlot (Config.iceBase + 4 * n.val) = some (BitVec.ofNat 4 n.val)) ∧
  (∀ address : Nat, address < Config.iceBase ∨ Config.iceBase + 64 ≤ address → windowSlot address = none)

/-! ## Reset and the two agents -/

/-- R291: the value of every piece of state after reset, and the STATUS word it reads as. -/
def Obligations.ResetValues : Prop :=
  (∀ r : Reg, State.reset.x[r] = 0) ∧ (∀ (r : Fin 16) (j : Fin 3), State.reset.ks[r][j] = 0) ∧
  State.reset.keyValid = false ∧ State.reset.eflag = false ∧ State.reset.err = 0 ∧ State.reset.cmd = 0 ∧
  State.reset.pend = (if Config.sboxBuildAtReset then .build else .empty) ∧
  State.reset.status = (if Config.sboxBuildAtReset then 0x00000001 else 0x00000000)

/-- From R290-R292, with a reset as a move of the host that is taken at once and carries the access in progress (the model's
reading, log 9): a reset, at any time and in any state, leaves exactly the block state of R291 (`ResetValues`); it abandons
the command in PEND and the access in progress, which gets no answer. -/
def Obligations.ResetAbandonsCommand : Prop :=
  ∀ (s : State) (p : Option Access) (rest : List HostMove), s.port.todo = .reset p :: rest →
    ∃ t, step s = .next t ∧ BlockKept State.reset t ∧ t.port.todo = rest ∧ t.port.answers = s.port.answers

/-- From R293, with SBOX_BUILD_AT_RESET left open (log 5): with BUILD in PEND the block is busy and holds every access but a
STATUS read; the engine's step empties PEND and changes nothing else, ERR and EFLAG included; PEND holds BUILD only from a
reset on. -/
def Obligations.BuildRunsOnceAfterReset : Prop :=
  (∀ s : State, s.pend = .build → s.busy = true ∧ engineStep s = .next { s with pend := .empty }) ∧
  (∀ (s : State) (a : Access) (rest : List HostMove), s.pend = .build → s.port.todo = .access a :: rest →
    a.we = true ∨ a.addr ≠ 2 → step s = .next { s with pend := .empty }) ∧
  (∀ s t : State, step s = .next t → t.pend = .build → s.pend = .build ∨ (ResetNext s ∧ Config.sboxBuildAtReset = true))

/-- From R294 and R303: a step leaves the state as it is exactly when the host has made its last move and PEND is empty. -/
def Obligations.RunEndsWhenQuiet : Prop := ∀ s : State, step s = .next s ↔ Quiet s

/-- From R302 and R304: no step stops: every state has a next state. -/
def Obligations.EveryStepAnswers : Prop := ∀ s : State, ∃ t, step s = .next t

/-- From R302, for every value of the free value of log 4: a busy block is not busy after at most one step more than the host
has moves left, resets among them, whatever word PEND holds; and an access that the host presents, held or not, is answered
within two steps. -/
def Obligations.BusyEndsInFiniteTime : Prop :=
  (∀ s : State, s.busy = true →
    ∃ k t, k ≤ s.port.todo.length + 1 ∧ Host.Core.run core k s = .next t ∧ t.busy = false) ∧
  (∀ (s : State) (a : Access) (rest : List HostMove), s.port.todo = .access a :: rest →
    ∃ k t answer, k ≤ 2 ∧ Host.Core.run core k s = .next t ∧ t.port.todo = rest ∧
      t.port.answers = answer :: s.port.answers)

/-- From R63, R296 and R301 (U12), for every value of the free value of log 4: no result depends on the STATUS reads. Two
hosts that make the same other moves from the same block state, one of them polling and one not, leave the same block state
when both runs are over. -/
def Obligations.PollingChangesNoResult : Prop :=
  ∀ (s s' t t' : State) (k k' : Nat), BlockKept s s' →
    s'.port.todo = s.port.todo.filter (fun move => !move.isPoll) →
    Host.Core.run core k s = .next t → Quiet t → Host.Core.run core k' s' = .next t' → Quiet t' → BlockKept t t'

/-- The invariant (`State.Inv`) holds after reset (R291). -/
def Obligations.InvariantAtReset : Prop := State.reset.Inv

/-- Every step keeps the invariant, from every state that has it (R26-R29, R32, R65, R293). -/
def Obligations.InvariantKept : Prop := ∀ s t : State, s.Inv → step s = .next t → t.Inv

/-! ## A choice of the model's own -/

/-- The model's choice (log 7), for which the spec states no value: whatever write the host makes and however it is answered,
OK or ERROR, the answer carries no read data. -/
def Obligations.WriteAnswersCarryNoData : Prop :=
  ∀ (s t : State) (a : Access) (rest : List HostMove), s.busy = false → s.port.todo = .access a :: rest → a.we = true →
    step s = .next t → ∃ err, t.port.answers = { err := err, rdata := none } :: s.port.answers
end

