-- ==== Sys2Proof/Laws/State.lean ====
section
/-! SUPPORT. One lemma per field per update of the state, each true by unfolding, so that no proof unfolds an update. -/

namespace Sys2Proof.Machine

@[simp] theorem State.writeReg_x (s : State) (r : Reg) (v : Word) : (s.writeReg r v).x = s.x.set r v := rfl
@[simp] theorem State.writeReg_keyValid (s : State) (r : Reg) (v : Word) : (s.writeReg r v).keyValid = s.keyValid := rfl
@[simp] theorem State.writeReg_eflag (s : State) (r : Reg) (v : Word) : (s.writeReg r v).eflag = s.eflag := rfl
@[simp] theorem State.writeReg_err (s : State) (r : Reg) (v : Word) : (s.writeReg r v).err = s.err := rfl
@[simp] theorem State.writeReg_cmd (s : State) (r : Reg) (v : Word) : (s.writeReg r v).cmd = s.cmd := rfl
@[simp] theorem State.writeReg_ks (s : State) (r : Reg) (v : Word) : (s.writeReg r v).ks = s.ks := rfl
@[simp] theorem State.writeReg_pend (s : State) (r : Reg) (v : Word) : (s.writeReg r v).pend = s.pend := rfl
@[simp] theorem State.writeReg_port (s : State) (r : Reg) (v : Word) : (s.writeReg r v).port = s.port := rfl

@[simp] theorem State.writeKs_x (s : State) (ks : Schedule) : (s.writeKs ks).x = s.x := rfl
@[simp] theorem State.writeKs_keyValid (s : State) (ks : Schedule) : (s.writeKs ks).keyValid = true := rfl
@[simp] theorem State.writeKs_eflag (s : State) (ks : Schedule) : (s.writeKs ks).eflag = s.eflag := rfl
@[simp] theorem State.writeKs_err (s : State) (ks : Schedule) : (s.writeKs ks).err = s.err := rfl
@[simp] theorem State.writeKs_cmd (s : State) (ks : Schedule) : (s.writeKs ks).cmd = s.cmd := rfl
@[simp] theorem State.writeKs_ks (s : State) (ks : Schedule) : (s.writeKs ks).ks = ks := rfl
@[simp] theorem State.writeKs_pend (s : State) (ks : Schedule) : (s.writeKs ks).pend = s.pend := rfl
@[simp] theorem State.writeKs_port (s : State) (ks : Schedule) : (s.writeKs ks).port = s.port := rfl

@[simp] theorem State.finish_x (s : State) (c : Code) : (s.finish c).x = s.x := rfl
@[simp] theorem State.finish_keyValid (s : State) (c : Code) : (s.finish c).keyValid = s.keyValid := rfl
@[simp] theorem State.finish_eflag (s : State) (c : Code) : (s.finish c).eflag = (s.eflag || c.isError) := rfl
@[simp] theorem State.finish_err (s : State) (c : Code) : (s.finish c).err = c.bits := rfl
@[simp] theorem State.finish_cmd (s : State) (c : Code) : (s.finish c).cmd = s.cmd := rfl
@[simp] theorem State.finish_ks (s : State) (c : Code) : (s.finish c).ks = s.ks := rfl
@[simp] theorem State.finish_pend (s : State) (c : Code) : (s.finish c).pend = .empty := rfl
@[simp] theorem State.finish_port (s : State) (c : Code) : (s.finish c).port = s.port := rfl

@[simp] theorem State.issue_x (s : State) (w : Word) : (s.issue w).x = s.x := rfl
@[simp] theorem State.issue_keyValid (s : State) (w : Word) : (s.issue w).keyValid = s.keyValid := rfl
@[simp] theorem State.issue_eflag (s : State) (w : Word) : (s.issue w).eflag = s.eflag := rfl
@[simp] theorem State.issue_err (s : State) (w : Word) : (s.issue w).err = s.err := rfl
@[simp] theorem State.issue_cmd (s : State) (w : Word) : (s.issue w).cmd = w := rfl
@[simp] theorem State.issue_ks (s : State) (w : Word) : (s.issue w).ks = s.ks := rfl
@[simp] theorem State.issue_pend (s : State) (w : Word) : (s.issue w).pend = .command w := rfl
@[simp] theorem State.issue_port (s : State) (w : Word) : (s.issue w).port = s.port := rfl

@[simp] theorem State.buildDone_x (s : State) : (s.buildDone).x = s.x := rfl
@[simp] theorem State.buildDone_keyValid (s : State) : (s.buildDone).keyValid = s.keyValid := rfl
@[simp] theorem State.buildDone_eflag (s : State) : (s.buildDone).eflag = s.eflag := rfl
@[simp] theorem State.buildDone_err (s : State) : (s.buildDone).err = s.err := rfl
@[simp] theorem State.buildDone_cmd (s : State) : (s.buildDone).cmd = s.cmd := rfl
@[simp] theorem State.buildDone_ks (s : State) : (s.buildDone).ks = s.ks := rfl
@[simp] theorem State.buildDone_pend (s : State) : (s.buildDone).pend = .empty := rfl
@[simp] theorem State.buildDone_port (s : State) : (s.buildDone).port = s.port := rfl

@[simp] theorem State.withCommand_x (s : State) (w : Word) : (s.withCommand w).x = s.x := rfl
@[simp] theorem State.withCommand_keyValid (s : State) (w : Word) : (s.withCommand w).keyValid = s.keyValid := rfl
@[simp] theorem State.withCommand_eflag (s : State) (w : Word) : (s.withCommand w).eflag = s.eflag := rfl
@[simp] theorem State.withCommand_err (s : State) (w : Word) : (s.withCommand w).err = s.err := rfl
@[simp] theorem State.withCommand_cmd (s : State) (w : Word) : (s.withCommand w).cmd = w := rfl
@[simp] theorem State.withCommand_ks (s : State) (w : Word) : (s.withCommand w).ks = s.ks := rfl
@[simp] theorem State.withCommand_pend (s : State) (w : Word) : (s.withCommand w).pend = .command w := rfl
@[simp] theorem State.withCommand_port (s : State) (w : Word) : (s.withCommand w).port = { s.port with todo := [] } := rfl

@[simp] theorem State.resetMove_x (s : State) (rest : List HostMove) : (s.resetMove rest).x = State.reset.x := rfl
@[simp] theorem State.resetMove_keyValid (s : State) (rest : List HostMove) : (s.resetMove rest).keyValid = false := rfl
@[simp] theorem State.resetMove_eflag (s : State) (rest : List HostMove) : (s.resetMove rest).eflag = false := rfl
@[simp] theorem State.resetMove_err (s : State) (rest : List HostMove) : (s.resetMove rest).err = 0 := rfl
@[simp] theorem State.resetMove_cmd (s : State) (rest : List HostMove) : (s.resetMove rest).cmd = 0 := rfl
@[simp] theorem State.resetMove_ks (s : State) (rest : List HostMove) : (s.resetMove rest).ks = State.reset.ks := rfl
@[simp] theorem State.resetMove_pend (s : State) (rest : List HostMove) : (s.resetMove rest).pend = Pend.reset := rfl
@[simp] theorem State.resetMove_port (s : State) (rest : List HostMove) : (s.resetMove rest).port = s.port.moved rest := rfl

@[simp] theorem State.serve_x (s : State) (a : Access) (rest : List HostMove) : (s.serve a rest).x = (respond a s).1.x := rfl
@[simp] theorem State.serve_keyValid (s : State) (a : Access) (rest : List HostMove) : (s.serve a rest).keyValid = (respond a s).1.keyValid := rfl
@[simp] theorem State.serve_eflag (s : State) (a : Access) (rest : List HostMove) : (s.serve a rest).eflag = (respond a s).1.eflag := rfl
@[simp] theorem State.serve_err (s : State) (a : Access) (rest : List HostMove) : (s.serve a rest).err = (respond a s).1.err := rfl
@[simp] theorem State.serve_cmd (s : State) (a : Access) (rest : List HostMove) : (s.serve a rest).cmd = (respond a s).1.cmd := rfl
@[simp] theorem State.serve_ks (s : State) (a : Access) (rest : List HostMove) : (s.serve a rest).ks = (respond a s).1.ks := rfl
@[simp] theorem State.serve_pend (s : State) (a : Access) (rest : List HostMove) : (s.serve a rest).pend = (respond a s).1.pend := rfl
@[simp] theorem State.serve_port (s : State) (a : Access) (rest : List HostMove) : (s.serve a rest).port = { s.port.moved rest with answers := (respond a s).2 :: s.port.answers } := rfl

@[simp] theorem Port.moved_todo (p : Port) (rest : List HostMove) : (p.moved rest).todo = rest := rfl
@[simp] theorem Port.moved_answers (p : Port) (rest : List HostMove) : (p.moved rest).answers = p.answers := rfl
@[simp] theorem Port.moved_moves (p : Port) (rest : List HostMove) : (p.moved rest).moves = p.moves + 1 := rfl

end Sys2Proof.Machine
end

