-- ==== Sys2Proof/Laws/Ops.lean ====
section
/-! SUPPORT. What each shared operation does, said once. -/

namespace Sys2Proof.Machine

/-! ### Registers -/

@[simp] theorem State.readReg_eq (s : State) (r : Reg) : s.readReg r = s.x[r] := rfl

@[simp] theorem State.readKs_eq (s : State) (r : Fin 16) : s.readKs r = s.ks[r] := rfl

@[simp] theorem State.writeReg_same (s : State) (r : Reg) (v : Word) : (s.writeReg r v).x[r] = v := by
  simp [State.writeReg]

theorem State.writeReg_other (s : State) {r q : Reg} (v : Word) (h : q ≠ r) : (s.writeReg r v).x[q] = s.x[q] := by
  have h' : r.val ≠ q.val := fun e => h (Fin.ext e.symm)
  simp [State.writeReg, h']

/-! ### Completion -/

/-- The completion update with a code, in the terms of R262. -/
theorem State.finish_next (s : State) (c : Code) :
    (s.finish c).err = c.bits ∧ (s.finish c).eflag = (s.eflag || c.bits != 0) ∧ (s.finish c).busy = false := by
  cases c <;> simp [Code.bits, Code.isError, State.busy]

theorem complete_eq (s : State) : complete s = .next (s.finish .ok) := rfl

theorem raiseError_eq (c : Code) (s : State) : raiseError c s = .next (s.finish c) := rfl

theorem withKey_set {s : State} (h : s.keyValid = true) (k : Result) : withKey s k = k := by simp [withKey, h]

theorem withKey_unset {s : State} (h : s.keyValid = false) (k : Result) : withKey s k = .next (s.finish .nokey) := by
  simp [withKey, h, raiseError_eq]

theorem withDistinct_ne {ra rb : Reg} (h : ra ≠ rb) (s : State) (k : Result) : withDistinct ra rb s k = k := by
  simp [withDistinct, h]

theorem withDistinct_eq {ra rb : Reg} (h : ra = rb) (s : State) (k : Result) :
    withDistinct ra rb s k = .next (s.finish .illegal) := by
  simp [withDistinct, h, raiseError_eq]

theorem writeBack_eq (rd : Reg) (v : Word) (s : State) : writeBack rd v s = .next ((s.writeReg rd v).finish .ok) := rfl

theorem writeBackChecked_some (rd : Reg) (v : Word) (s : State) :
    writeBackChecked rd (some v) s = .next ((s.writeReg rd v).finish .ok) := rfl

theorem writeBackChecked_none (rd : Reg) (s : State) : writeBackChecked rd none s = .next (s.finish .operand) := rfl

/-- Everything a checked write can do. -/
theorem writeBackChecked_cases (rd : Reg) (v : Option Word) (s : State) :
    (∃ w, v = some w ∧ writeBackChecked rd v s = .next ((s.writeReg rd w).finish .ok)) ∨
      (v = none ∧ writeBackChecked rd v s = .next (s.finish .operand)) := by
  cases v with
  | some w => exact .inl ⟨w, rfl, rfl⟩
  | none => exact .inr ⟨rfl, rfl⟩

/-! ### Operand forms -/

theorem gfElement_some {v : Word} (h : v ≤ 0xFF#32) : gfElement v = some (v.setWidth 8) := by simp [gfElement, h]

theorem gfElement_none {v : Word} (h : 0xFF#32 < v) : gfElement v = none := by simpa [gfElement] using h

theorem gfModulus_some {v : Word} (h : 0x100#32 ≤ v) (h' : v ≤ 0x1FF#32) : gfModulus v = some (v.setWidth 9) := by
  simp [gfModulus, h, h']

theorem gfModulus_none {v : Word} (h : v < 0x100#32 ∨ 0x1FF#32 < v) : gfModulus v = none := by
  have h' : ¬(0x100#32 ≤ v ∧ v ≤ 0x1FF#32) := by
    rintro ⟨h1, h2⟩
    rcases h with h | h
    · exact absurd h (BitVec.not_lt.mpr h1)
    · exact absurd h (BitVec.not_lt.mpr h2)
  simp only [gfModulus, if_neg h']

theorem sboxIndex_some {v : Word} (h : v ≤ 0x3FF#32) : sboxIndex v = some (v.setWidth 10) := by simp [sboxIndex, h]

theorem sboxIndex_none {v : Word} (h : 0x3FF#32 < v) : sboxIndex v = none := by simpa [sboxIndex] using h

theorem subkeyOperand_some {v : Word} (h : v ≤ 0xFFFFF#32) : subkeyOperand v = some (v.setWidth 20) := by
  simp [subkeyOperand, h]

theorem subkeyOperand_none {v : Word} (h : 0xFFFFF#32 < v) : subkeyOperand v = none := by simpa [subkeyOperand] using h

/-- A value in range is the zero-extension of its field element, so nothing is lost by narrowing it (R115, R116). -/
theorem gfElement_zext (b : Byte) : gfElement (b.setWidth 32) = some b := by
  have h : b.setWidth 32 ≤ 0xFF#32 := by
    have := b.isLt
    simp only [BitVec.le_def, BitVec.toNat_setWidth, BitVec.toNat_ofNat]
    omega
  rw [gfElement_some h]
  exact congrArg some (by ext i; simp)

/-! ### Constant tables -/

@[simp] theorem keyrotLow_length : keyrotLow.length = 8 := rfl

@[simp] theorem keyrotHigh_length : keyrotHigh.length = 8 := rfl

end Sys2Proof.Machine
end

