-- ==== Sys2Proof/Laws/Bus.lean ====
section
/-! SUPPORT. The host's accesses, whose turn it is, and what one step can be. -/

namespace Sys2Proof.Machine

/-! ### BUSY -/

theorem State.busy_eq_true_iff (s : State) : s.busy = true ↔ s.pend ≠ .empty := by
  cases h : s.pend <;> simp [State.busy, h]

theorem State.busy_eq_false_iff (s : State) : s.busy = false ↔ s.pend = .empty := by
  cases h : s.pend <;> simp [State.busy, h]

/-! ### Accesses -/

theorem Access.isStatusRead_iff (a : Access) : a.isStatusRead = true ↔ a.we = false ∧ a.addr = 2#4 := by
  have h : ∀ b : BitVec 4, slotAt b = .status ↔ b = 2#4 := by decide
  cases hw : a.we <;> simp [Access.isStatusRead, hw, h]

/-- Everything the answer to an access can be: refused with no change; a read, with no change; or a write. -/
theorem respond_cases (a : Access) (s : State) :
    respond a s = (s, errorAnswer a) ∨
    (∃ v, a.be = 0b1111#4 ∧ a.we = false ∧ memRead s (slotAt a.addr) = some v ∧
      respond a s = (s, { err := false, rdata := some v })) ∨
    (∃ s', a.be = 0b1111#4 ∧ a.we = true ∧ memWrite s a.wdata (slotAt a.addr) = some s' ∧
      respond a s = (s', { err := false, rdata := none })) := by
  unfold respond
  by_cases hbe : a.be = 0b1111#4
  · cases hw : a.we with
    | true =>
      cases hm : memWrite s a.wdata (slotAt a.addr) with
      | some s' => exact .inr (.inr ⟨s', by simp [hbe]⟩)
      | none => exact .inl (by simp [hbe])
    | false =>
      cases hm : memRead s (slotAt a.addr) with
      | some v => exact .inr (.inl ⟨v, by simp [hbe]⟩)
      | none => exact .inl (by simp [hbe])
  · exact .inl (by simp [hbe])

/-- The two writes the window has (R53, R54). -/
theorem memWrite_cases {s s' : State} {v : Word} {slot : Slot} (h : memWrite s v slot = some s') :
    (slot = .cmd ∧ s' = s.issue v) ∨ (∃ r, slot = .data r ∧ s' = s.writeReg r v) := by
  cases slot <;> simp_all [memWrite]

/-! ### Turns -/

/-- The four turns, with what makes each one. -/
theorem State.turn_cases (s : State) :
    (∃ p rest, s.port.todo = .reset p :: rest ∧ s.turn = .reset rest) ∨
    (∃ a rest, s.port.todo = .access a :: rest ∧ s.turn = .access a rest ∧
      (s.busy = false ∨ a.isStatusRead = true)) ∨
    (s.busy = true ∧ s.turn = .engine ∧ ∀ p rest, s.port.todo ≠ .reset p :: rest) ∨
    (s.busy = false ∧ s.turn = .idle ∧ s.port.todo = []) := by
  unfold State.turn
  cases ht : s.port.todo with
  | nil => cases hb : s.busy <;> simp
  | cons move rest =>
    cases move with
    | reset p => simp
    | access a =>
      cases hb : s.busy <;> cases hr : a.isStatusRead <;> cases hc : Config.statusReadFirst s.port.moves <;> simp [hr]

theorem step_eq_resetMove {s : State} {p : Option Access} {rest : List HostMove} (h : s.port.todo = .reset p :: rest) :
    step s = .next (s.resetMove rest) := by
  simp [step, takeTurn, State.turn, h]

theorem step_eq_serve {s : State} {a : Access} {rest : List HostMove} (h : s.port.todo = .access a :: rest)
    (hb : s.busy = false) : step s = .next (s.serve a rest) := by
  simp [step, takeTurn, State.turn, h, hb]

theorem step_eq_engineStep_of_held {s : State} {a : Access} {rest : List HostMove} (h : s.port.todo = .access a :: rest)
    (hb : s.busy = true) (ha : a.isStatusRead = false) : step s = engineStep s := by
  simp [step, takeTurn, State.turn, h, hb, ha]

theorem step_eq_engineStep_of_nil {s : State} (h : s.port.todo = []) (hb : s.busy = true) : step s = engineStep s := by
  simp [step, takeTurn, State.turn, h, hb]

/-- Everything one step can be. -/
theorem step_cases (s : State) :
    (∃ p rest, s.port.todo = .reset p :: rest ∧ step s = .next (s.resetMove rest)) ∨
    (∃ a rest, s.port.todo = .access a :: rest ∧ (s.busy = false ∨ a.isStatusRead = true) ∧
      step s = .next (s.serve a rest)) ∨
    (s.busy = true ∧ (∀ p rest, s.port.todo ≠ .reset p :: rest) ∧ step s = engineStep s) ∨
    (s.busy = false ∧ s.port.todo = [] ∧ step s = .next s) := by
  rcases s.turn_cases with ⟨p, rest, h, ht⟩ | ⟨a, rest, h, ht, hb⟩ | ⟨hb, ht, hn⟩ | ⟨hb, ht, h⟩
  · exact .inl ⟨p, rest, h, by simp [step, takeTurn, ht]⟩
  · exact .inr (.inl ⟨a, rest, h, hb, by simp [step, takeTurn, ht]⟩)
  · exact .inr (.inr (.inl ⟨hb, hn, by simp [step, takeTurn, ht]⟩))
  · exact .inr (.inr (.inr ⟨hb, h, by simp [step, takeTurn, ht]⟩))

/-- A word put in PEND by `withFetchWord` is run by the very next step. -/
theorem step_withFetchWord (s : State) (nbits w : Nat) :
    step (s.withFetchWord nbits w) = runWord (tableWord nbits w) (s.withFetchWord nbits w) := rfl

end Sys2Proof.Machine
end

