-- ==== Sys2Proof/Laws/Decode.lean ====
section
/-! SUPPORT. Fields of a word built by OR, and the rows of the opcode table. -/

namespace Sys2Proof

/-- Masking an OR whose second part lies outside the mask. -/
theorem or_and_of_and_eq_zero {a b m c : Word} (ha : a &&& m = c) (hb : b &&& m = 0) : (a ||| b) &&& m = c := by
  rw [← ha]
  have h : (a ||| b) &&& m = a &&& m ||| b &&& m := by ext i; simp [Bool.and_or_distrib_right]
  simp [h, hb]

/-- A field of an OR whose second part does not reach it. -/
theorem extract_or_of_eq_zero {a b : Word} {lo len : Nat} (hb : b.extractLsb' lo len = 0) :
    (a ||| b).extractLsb' lo len = a.extractLsb' lo len := by
  simp [BitVec.extractLsb'_or, hb]

/-- A field of an OR whose first part does not reach it. -/
theorem extract_or_of_zero_eq {a b : Word} {lo len : Nat} (ha : a.extractLsb' lo len = 0) :
    (a ||| b).extractLsb' lo len = b.extractLsb' lo len := by
  simp [BitVec.extractLsb'_or, ha]

/-- A register field by arithmetic (R81). -/
theorem regField_val (w : Word) (lo : Nat) : (regField w lo).val = w.toNat / 2 ^ lo % 2 ^ 3 := by
  show (w.extractLsb' lo 3).toNat = _
  rw [BitVec.extractLsb'_toNat, Nat.shiftRight_eq_div_pow]

/-- SEL by arithmetic (R81). -/
theorem selField_val (w : Word) : (selField w).val = w.toNat / 2 ^ 18 % 2 ^ 2 := by
  show (w.extractLsb' 18 2).toNat = _
  rw [BitVec.extractLsb'_toNat, Nat.shiftRight_eq_div_pow]

/-- RND by arithmetic (R81). -/
theorem rndField_val (w : Word) : (rndField w).val = w.toNat / 2 ^ 20 % 2 ^ 4 := by
  show (w.extractLsb' 20 4).toNat = _
  rw [BitVec.extractLsb'_toNat, Nat.shiftRight_eq_div_pow]

/-- OP by arithmetic (R81). -/
theorem opField_toNat (w : Word) : (opField w).toNat = w.toNat / 2 ^ 24 % 2 ^ 8 := by
  rw [opField, BitVec.extractLsb'_toNat, Nat.shiftRight_eq_div_pow]

/-- The row of a word is found by its OP alone. -/
theorem rowOf_of_opField {w : Word} {op : Byte} (h : opField w = op) :
    rowOf w = opcodeTable.find? fun row => row.op == op := by
  rw [rowOf, h]

/-- A register placed in a register field leaves OP alone. -/
theorem opField_placed_reg (r : Reg) : opField (placed r 0) = 0 ∧ opField (placed r 3) = 0 ∧ opField (placed r 6) = 0 ∧
    opField (placed r 9) = 0 ∧ opField (placed r 12) = 0 := by
  revert r; decide

/-- An immediate placed in SEL or RND leaves OP alone. -/
theorem opField_placed_imm (t : Fin 4) (r : Fin 16) : opField (placed t 18) = 0 ∧ opField (placed r 20) = 0 := by
  revert t r; decide

theorem opField_or {a b : Word} (hb : opField b = 0) : opField (a ||| b) = opField a := extract_or_of_eq_zero hb

/-- No two rows of R84's table share an opcode. -/
theorem opcodeTable_ops_distinct : (opcodeTable.map Row.op).Nodup := by decide

/-- Every row's match value lies under its mask, with the row's OP in it. -/
theorem opcodeTable_patterns : ∀ row ∈ opcodeTable, row.pattern &&& row.mask = row.pattern ∧ opField row.pattern = row.op := by
  simp only [opcodeTable, List.forall_mem_cons, List.not_mem_nil, false_imp_iff, implies_true, and_true]
  decide

/-- A mask that holds all of OP: a word that passes the mask test has the match value's OP. -/
theorem opField_of_masked {w mask pattern : Word} (h : w &&& mask = pattern) (hm : opField mask = 0xFF) :
    opField w = opField pattern := by
  rw [← h, opField, opField, BitVec.extractLsb'_and, ← opField, ← opField, hm]
  exact (BitVec.and_allOnes (x := opField w)).symm

/-- A word that passes the mask test of a row of the table decodes to that row's command (R88). -/
theorem decode_of_masked {w : Word} {row : Row} (h : w &&& row.mask = row.pattern) (hr : rowOf row.pattern = some row)
    (hm : opField row.mask = 0xFF) : decode w = row.operands w := by
  have hrow : rowOf w = some row := by rw [← hr, rowOf, rowOf, opField_of_masked h hm]
  simp only [decode, hrow, if_pos h]

/-- A word with a row's OP that fails its mask test is refused (R85, R88). -/
theorem decode_of_unmasked {w : Word} {row : Row} (h : w &&& row.mask ≠ row.pattern) (hr : rowOf w = some row) :
    decode w = .error .nonzeroUnused := by
  simp only [decode, hr, if_neg h]

end Sys2Proof
end

