-- ==== Sys2Proof/Laws/Exec.lean ====
section
/-! SUPPORT. Everything a command and an engine step can do, said once. -/

namespace Sys2Proof.Machine

/-- The states a command can end in. -/
inductive Ended (i : Instr) (s : State) : State → Prop
  /-- It failed, and only the completion update was made (R262). -/
  | failed (c : Code) (hc : c ≠ .ok) : Ended i s (s.finish c)
  /-- NOP: it completed with no write. -/
  | unwritten : Ended i s (s.finish .ok)
  /-- It completed with one register written. -/
  | written (rd : Reg) (v : Word) : Ended i s ((s.writeReg rd v).finish .ok)
  /-- ENC or DEC completed with a block written. -/
  | block (ra rb : Reg) (b : Word × Word) : Ended i s (((s.writeReg ra b.1).writeReg rb b.2).finish .ok)
  /-- KEYSET completed with the whole schedule written. -/
  | keyed (ra rb : Reg) (hi : i = .keyset ra rb) :
      Ended i s ((s.writeKs (keySchedule (seedOf s.x[ra] s.x[rb]))).finish .ok)

theorem ended_checked (i : Instr) (rd : Reg) (v : Option Word) (s : State) :
    ∃ t, writeBackChecked rd v s = .next t ∧ Ended i s t := by
  rcases writeBackChecked_cases rd v s with ⟨w, -, h⟩ | ⟨-, h⟩
  · exact ⟨_, h, .written rd w⟩
  · exact ⟨_, h, .failed .operand (by decide)⟩

theorem ended_withKey {i : Instr} {s : State} {k : Result} (h : ∃ t, k = .next t ∧ Ended i s t) :
    ∃ t, withKey s k = .next t ∧ Ended i s t := by
  cases hk : s.keyValid with
  | false => exact ⟨_, withKey_unset hk k, .failed .nokey (by decide)⟩
  | true => rwa [withKey_set hk]

theorem ended_withDistinct {i : Instr} {s : State} {k : Result} (ra rb : Reg) (h : ∃ t, k = .next t ∧ Ended i s t) :
    ∃ t, withDistinct ra rb s k = .next t ∧ Ended i s t := by
  by_cases hr : ra = rb
  · exact ⟨_, withDistinct_eq hr s k, .failed .illegal (by decide)⟩
  · rwa [withDistinct_ne hr]

/-- Every command ends in one of the states of `Ended`. -/
theorem exec_ended (i : Instr) (s : State) : ∃ t, exec i s = .next t ∧ Ended i s t := by
  cases i with
  | nop => exact ⟨_, rfl, .unwritten⟩
  | gfmul rd ra rb rc => exact ended_checked _ rd _ s
  | gfpow7 rd ra rb => exact ended_checked _ rd _ s
  | perm32 rd ra => exact ⟨_, rfl, .written rd _⟩
  | sbox rd ra t => exact ended_checked _ rd _ s
  | roundf rd ra rb rc re => exact ended_checked _ rd _ s
  | roundk rd ra r => exact ended_withKey ⟨_, rfl, .written rd _⟩
  | xor rd ra rb => exact ⟨_, rfl, .written rd _⟩
  | keyset ra rb => exact ⟨_, rfl, .keyed ra rb rfl⟩
  | ksrd rd r j => exact ended_withKey ⟨_, rfl, .written rd _⟩
  | enc ra rb => exact ended_withDistinct ra rb (ended_withKey ⟨_, rfl, .block ra rb _⟩)
  | dec ra rb => exact ended_withDistinct ra rb (ended_withKey ⟨_, rfl, .block ra rb _⟩)

/-- Everything an engine step can be. -/
theorem engineStep_cases (s : State) :
    (s.pend = .empty ∧ engineStep s = .next s) ∨
    (s.pend = .build ∧ engineStep s = .next s.buildDone) ∨
    (∃ w i t, s.pend = .command w ∧ decode w = .ok i ∧ exec i s = .next t ∧ engineStep s = .next t ∧ Ended i s t) ∨
    (∃ w e, s.pend = .command w ∧ decode w = .error e ∧ engineStep s = .next (s.finish .illegal)) := by
  cases hp : s.pend with
  | empty => exact .inl ⟨rfl, by simp [engineStep, hp]⟩
  | build => exact .inr (.inl ⟨rfl, by simp [engineStep, hp]⟩)
  | command w =>
    cases hd : decode w with
    | ok i =>
      obtain ⟨t, ht, he⟩ := exec_ended i s
      exact .inr (.inr (.inl ⟨w, i, t, rfl, hd, ht, by simp [engineStep, hp, runWord, hd, ht], he⟩))
    | error e => exact .inr (.inr (.inr ⟨w, e, rfl, hd, by simp [engineStep, hp, runWord, hd, raiseError_eq]⟩))

/-! ### The host's side of the port does not matter to the engine -/

/-- A result with the host's side of the port replaced. -/
def withPort (p : Port) : Result → Result
  | .next t => .next { t with port := p }
  | .fault f => .fault f
  | .refused r => .refused r

theorem writeBackChecked_withPort (rd : Reg) (v : Option Word) (s : State) (p : Port) :
    writeBackChecked rd v { s with port := p } = withPort p (writeBackChecked rd v s) := by
  cases v <;> rfl

theorem writeBlock_withPort (ra rb : Reg) (b : Word × Word) (s : State) (p : Port) :
    writeBlock ra rb b { s with port := p } = withPort p (writeBlock ra rb b s) := rfl

theorem withKey_withPort {s : State} {p : Port} {k k' : Result} (h : k' = withPort p k) :
    withKey { s with port := p } k' = withPort p (withKey s k) := by
  by_cases hk : s.keyValid = true
  · rw [withKey_set hk, ← h]
    exact withKey_set (s := { s with port := p }) hk k'
  · have hk' : s.keyValid = false := by simpa using hk
    rw [withKey_unset hk']
    exact withKey_unset (s := { s with port := p }) hk' k'

theorem withDistinct_withPort {ra rb : Reg} {s : State} {p : Port} {k k' : Result} (h : k' = withPort p k) :
    withDistinct ra rb { s with port := p } k' = withPort p (withDistinct ra rb s k) := by
  by_cases hr : ra = rb
  · rw [withDistinct_eq hr, withDistinct_eq hr]; rfl
  · rw [withDistinct_ne hr, withDistinct_ne hr, h]

theorem complete_writeKs_withPort (ks : Schedule) (s : State) (p : Port) :
    complete (({ s with port := p } : State).writeKs ks) = withPort p (complete (s.writeKs ks)) := rfl

/-- A command neither reads nor writes the host's side of the port. -/
theorem exec_withPort (i : Instr) (s : State) (p : Port) : exec i { s with port := p } = withPort p (exec i s) := by
  cases i with
  | nop => rfl
  | gfmul rd ra rb rc => exact writeBackChecked_withPort rd _ s p
  | gfpow7 rd ra rb => exact writeBackChecked_withPort rd _ s p
  | perm32 rd ra => rfl
  | sbox rd ra t => exact writeBackChecked_withPort rd _ s p
  | roundf rd ra rb rc re => exact writeBackChecked_withPort rd _ s p
  | roundk rd ra r => exact withKey_withPort rfl
  | xor rd ra rb => rfl
  | keyset ra rb => exact complete_writeKs_withPort _ s p
  | ksrd rd r j => exact withKey_withPort rfl
  | enc ra rb => exact withDistinct_withPort (withKey_withPort (writeBlock_withPort ra rb _ s p))
  | dec ra rb => exact withDistinct_withPort (withKey_withPort (writeBlock_withPort ra rb _ s p))

/-- An engine step neither reads nor writes the host's side of the port. -/
theorem engineStep_withPort (s : State) (p : Port) : engineStep { s with port := p } = withPort p (engineStep s) := by
  cases hp : s.pend with
  | empty => simp [engineStep, hp, withPort]
  | build => simp [engineStep, hp, withPort, State.buildDone]
  | command w =>
    simp only [engineStep, hp, runWord]
    cases decode w with
    | ok i =>
      have h := exec_withPort i s p
      rwa [← hp]
    | error e => rw [← hp]; rfl

end Sys2Proof.Machine
end

