-- ==== Sys2Proof/Laws/PerInstr.lean ====
section
/-! SUPPORT. Statements made for each constructor of Instr. -/

namespace Sys2Proof.Laws.RowMatch

/-- The word of a command is in its row: its OP finds a row of R84's table, and it passes that row's mask test (R84, R88). -/
def Statement (i : Instr) : Prop := ∃ row, rowOf (encode i) = some row ∧ encode i &&& row.mask = row.pattern

/-- A word with the OP of a row, which passes the row's mask test. -/
theorem of_row {i : Instr} {op : Byte} {row : Row} (h : opField (encode i) = op)
    (hf : (opcodeTable.find? fun r => r.op == op) = some row) (hm : encode i &&& row.mask = row.pattern) : Statement i :=
  ⟨row, by rw [rowOf_of_opField h, hf], hm⟩

theorem nop : Statement .nop := of_row (op := 0x00) rfl rfl rfl

theorem gfmul (rd ra rb rc : Reg) : Statement (.gfmul rd ra rb rc) := by
  refine of_row (op := 0x01) ?_ rfl ?_
  · exact (opField_or (opField_placed_reg rd).1).trans ((opField_or (opField_placed_reg ra).2.1).trans
      ((opField_or (opField_placed_reg rb).2.2.1).trans (opField_or (opField_placed_reg rc).2.2.2.1)))
  · exact or_and_of_and_eq_zero (or_and_of_and_eq_zero (or_and_of_and_eq_zero (or_and_of_and_eq_zero (by decide)
      (by revert rc; decide)) (by revert rb; decide)) (by revert ra; decide)) (by revert rd; decide)

theorem gfpow7 (rd ra rb : Reg) : Statement (.gfpow7 rd ra rb) := by
  refine of_row (op := 0x02) ?_ rfl ?_
  · exact (opField_or (opField_placed_reg rd).1).trans ((opField_or (opField_placed_reg ra).2.1).trans
      (opField_or (opField_placed_reg rb).2.2.1))
  · exact or_and_of_and_eq_zero (or_and_of_and_eq_zero (or_and_of_and_eq_zero (by decide)
      (by revert rb; decide)) (by revert ra; decide)) (by revert rd; decide)

theorem perm32 (rd ra : Reg) : Statement (.perm32 rd ra) := by
  refine of_row (op := 0x03) ?_ rfl ?_
  · exact (opField_or (opField_placed_reg rd).1).trans (opField_or (opField_placed_reg ra).2.1)
  · exact or_and_of_and_eq_zero (or_and_of_and_eq_zero (by decide) (by revert ra; decide)) (by revert rd; decide)

theorem sbox (rd ra : Reg) (t : Fin 4) : Statement (.sbox rd ra t) := by
  refine of_row (op := 0x04) ?_ rfl ?_
  · exact (opField_or (opField_placed_reg rd).1).trans ((opField_or (opField_placed_reg ra).2.1).trans
      (opField_or (opField_placed_imm t 0).1))
  · exact or_and_of_and_eq_zero (or_and_of_and_eq_zero (or_and_of_and_eq_zero (by decide)
      (by revert t; decide)) (by revert ra; decide)) (by revert rd; decide)

theorem roundf (rd ra rb rc re : Reg) : Statement (.roundf rd ra rb rc re) := by
  refine of_row (op := 0x05) ?_ rfl ?_
  · exact (opField_or (opField_placed_reg rd).1).trans ((opField_or (opField_placed_reg ra).2.1).trans
      ((opField_or (opField_placed_reg rb).2.2.1).trans ((opField_or (opField_placed_reg rc).2.2.2.1).trans
        (opField_or (opField_placed_reg re).2.2.2.2))))
  · exact or_and_of_and_eq_zero (or_and_of_and_eq_zero (or_and_of_and_eq_zero (or_and_of_and_eq_zero
      (or_and_of_and_eq_zero (by decide) (by revert re; decide)) (by revert rc; decide)) (by revert rb; decide))
      (by revert ra; decide)) (by revert rd; decide)

theorem roundk (rd ra : Reg) (r : Fin 16) : Statement (.roundk rd ra r) := by
  refine of_row (op := 0x06) ?_ rfl ?_
  · exact (opField_or (opField_placed_reg rd).1).trans ((opField_or (opField_placed_reg ra).2.1).trans
      (opField_or (opField_placed_imm 0 r).2))
  · exact or_and_of_and_eq_zero (or_and_of_and_eq_zero (or_and_of_and_eq_zero (by decide)
      (by revert r; decide)) (by revert ra; decide)) (by revert rd; decide)

theorem xor (rd ra rb : Reg) : Statement (.xor rd ra rb) := by
  refine of_row (op := 0x07) ?_ rfl ?_
  · exact (opField_or (opField_placed_reg rd).1).trans ((opField_or (opField_placed_reg ra).2.1).trans
      (opField_or (opField_placed_reg rb).2.2.1))
  · exact or_and_of_and_eq_zero (or_and_of_and_eq_zero (or_and_of_and_eq_zero (by decide)
      (by revert rb; decide)) (by revert ra; decide)) (by revert rd; decide)

theorem keyset (ra rb : Reg) : Statement (.keyset ra rb) := by
  refine of_row (op := 0x10) ?_ rfl ?_
  · exact (opField_or (opField_placed_reg ra).2.1).trans (opField_or (opField_placed_reg rb).2.2.1)
  · exact or_and_of_and_eq_zero (or_and_of_and_eq_zero (by decide) (by revert rb; decide)) (by revert ra; decide)

theorem ksrd (rd : Reg) (r : Fin 16) (j : Fin 3) : Statement (.ksrd rd r j) := by
  refine of_row (op := 0x11) ?_ rfl ?_
  · exact (opField_or (opField_placed_reg rd).1).trans ((opField_or (by revert j; decide)).trans
      (opField_or (opField_placed_imm 0 r).2))
  · exact or_and_of_and_eq_zero (or_and_of_and_eq_zero (or_and_of_and_eq_zero (by decide)
      (by revert r; decide)) (by revert j; decide)) (by revert rd; decide)

theorem enc (ra rb : Reg) : Statement (.enc ra rb) := by
  refine of_row (op := 0x20) ?_ rfl ?_
  · exact (opField_or (opField_placed_reg ra).2.1).trans (opField_or (opField_placed_reg rb).2.2.1)
  · exact or_and_of_and_eq_zero (or_and_of_and_eq_zero (by decide) (by revert rb; decide)) (by revert ra; decide)

theorem dec (ra rb : Reg) : Statement (.dec ra rb) := by
  refine of_row (op := 0x21) ?_ rfl ?_
  · exact (opField_or (opField_placed_reg ra).2.1).trans (opField_or (opField_placed_reg rb).2.2.1)
  · exact or_and_of_and_eq_zero (or_and_of_and_eq_zero (by decide) (by revert rb; decide)) (by revert ra; decide)

end Sys2Proof.Laws.RowMatch
end

