-- ==== Sys2Proof/Tests/Slice0.lean ====
section
/-! SUPPORT. Tests of the model against values of spec/ (each names its source), and a witness for the hypotheses of each
statement. -/

namespace Sys2Proof.Tests

open Sys2Proof.Machine

/-! ### Helpers -/

/-- The next state of a result. -/
def after : Result → Option State
  | .next t => some t
  | .fault _ => none
  | .refused _ => none

/-- A state after reset with these data registers and an empty PEND. -/
def st (x : Vector Word 8) : State := { State.reset with x := x, pend := .empty }

/-- `st`, with the schedule of the seed of vector L1-2 (95_test_vectors.md §3.5) loaded. -/
def keyed (x : Vector Word 8) : State := (st x).writeKs (keySchedule (seedOf 0x52FDFC07 0x2182654F))

/-- `st`, with a word in PEND. -/
def pending (w : Word) : State := { st (Vector.replicate 8 0) with pend := .command w, cmd := w }

/-- A state with these host moves to come. -/
def facing (s : State) (todo : List HostMove) : State := { s with port := { s.port with todo := todo } }

/-- A full-word read and write of a byte offset (R93). -/
def readAt (offset : Nat) : Access := { we := false, addr := BitVec.ofNat 4 (offset / 4), be := 0b1111, wdata := 0 }
def writeAt (offset : Nat) (v : Word) : Access := { we := true, addr := BitVec.ofNat 4 (offset / 4), be := 0b1111, wdata := v }

/-- The answer a state's port gives to an access that is not held. -/
def answerTo (s : State) (a : Access) : Option Answer :=
  (after (step (facing s [.access a]))).bind fun t => t.port.answers.head?

/-! ### Well-formedness: the ill-formed commands are refused (R87) -/

theorem test_wellFormed_enc : Instr.wellFormed (.enc 1 1) = false ∧ Instr.wellFormed (.enc 1 2) = true := by decide
theorem test_wellFormed_dec : Instr.wellFormed (.dec 7 7) = false ∧ Instr.wellFormed (.dec 7 0) = true := by decide

/-! ### Decoding: words written out from R81 and R84 -/

/-- 0x00000000 is NOP (R250). -/
theorem test_decode_nop : decode 0x00000000 = .ok .nop := by decide +kernel
/-- OP 00000001, RSV to RE 0, RC 010, RB 001, RA 001, RD 111 (95_test_vectors.md §4: `GFMUL r7, r1, r1, r2`). -/
theorem test_decode_gfmul : decode 0b00000001000000000000010001001111 = .ok (.gfmul 7 1 1 2) := by decide +kernel
/-- OP 00000010, RB 010, RA 011, RD 011 (P2: `GFPOW7 r3, r3, r2`). -/
theorem test_decode_gfpow7 : decode 0b00000010000000000000000010011011 = .ok (.gfpow7 3 3 2) := by decide +kernel
/-- OP 00000011, RA 011, RD 011 (P2: `PERM32 r3, r3`). -/
theorem test_decode_perm32 : decode 0b00000011000000000000000000011011 = .ok (.perm32 3 3) := by decide +kernel
/-- OP 00000100, SEL 11, RA 100, RD 101 (P2: `SBOX r5, r4, 3`). -/
theorem test_decode_sbox : decode 0b00000100000011000000000000100101 = .ok (.sbox 5 4 3) := by decide +kernel
/-- OP 00000101, RE 110, RC 001, RB 001, RA 001, RD 111 (§4: `ROUNDF r7, r1, r1, r1, r6`). -/
theorem test_decode_roundf : decode 0b00000101000000000110001001001111 = .ok (.roundf 7 1 1 1 6) := by decide +kernel
/-- OP 00000110, RND 1111, RA 000, RD 010 (P3: `ROUNDK r2, r0, 15`). -/
theorem test_decode_roundk : decode 0b00000110111100000000000000000010 = .ok (.roundk 2 0 15) := by decide +kernel
/-- OP 00000111, RB 001, RA 000, RD 011 (R251: `XOR r3, r0, r1`). -/
theorem test_decode_xor : decode 0b00000111000000000000000001000011 = .ok (.xor 3 0 1) := by decide +kernel
/-- OP 00010000, RB 011, RA 010 (P4: `KEYSET r2, r3`). -/
theorem test_decode_keyset : decode 0b00010000000000000000000011010000 = .ok (.keyset 2 3) := by decide +kernel
/-- OP 00010001, RND 1111, SEL 10, RD 100 (R91: `KSRD r4, 15, 2`). -/
theorem test_decode_ksrd : decode 0b00010001111110000000000000000100 = .ok (.ksrd 4 15 2) := by decide +kernel
/-- OP 00100000, RB 011, RA 010 (R91: `ENC r2, r3`). -/
theorem test_decode_enc : decode 0b00100000000000000000000011010000 = .ok (.enc 2 3) := by decide +kernel
/-- OP 00100001, RB 101, RA 100 (R224: `DEC r4, r5`). -/
theorem test_decode_dec : decode 0b00100001000000000000000101100000 = .ok (.dec 4 5) := by decide +kernel

/-- The illegal words of R85, R86, R87 and 95_test_vectors.md §4, each refused by name. -/
theorem test_decode_illegal :
    decode 0x08000000 = .error .undefinedOpcode ∧ decode 0xFF000000 = .error .undefinedOpcode ∧
    decode 0x00000001 = .error .nonzeroUnused ∧ decode 0x06008000 = .error .nonzeroUnused ∧
    decode 0x20000007 = .error .nonzeroUnused ∧ decode 0x10000001 = .error .nonzeroUnused ∧
    decode 0x110C0000 = .error .subkeyThree ∧ decode 0x20000048 = .error .sameRegister ∧
    decode 0x21000000 = .error .sameRegister := by decide +kernel

/-- R91, R92: `ENC r2, r3`, `KSRD r4, 15, 2` and `CLR r6` assemble to these words. -/
theorem test_encode : encode (.enc 2 3) = 0x200000D0 ∧ encode (.ksrd 4 15 2) = 0x11F80004 ∧
    encode (.xor 6 6 6) = 0x070001B6 := by decide +kernel

/-- The table's numbering is the word's own (spec/opcode_table.json, row XOR). -/
theorem test_decodeTableWord : decodeTableWord 32 0x07000043 = some (.xor 3 0 1) ∧ decodeTableWord 32 1 = none := by
  decide +kernel

/-! ### Commands: examples of their rules and of 95_test_vectors.md -/

/-- §3.9: NOP on STATUS 0x00000106 gives 0x00000006. -/
theorem test_nop_status : (after (exec .nop { st (Vector.replicate 8 0) with keyValid := true, eflag := true, err := 1 })).map
    State.status = some 0x00000006 := by decide +kernel
/-- R115: 0x02 · 0x80 mod 0x14D = 0x4D. -/
theorem test_gfmul_reduces : (after (exec (.gfmul 3 0 1 2) (st #v[0x02, 0x80, 0x14D, 0, 0, 0, 0, 0]))).map (·.x[3]) =
    some 0x0000004D := by decide +kernel
/-- §4: `GFMUL r7, r1, r1, r4` with m = 0x200 is OPERAND, and r7 keeps its value. -/
theorem test_gfmul_operand : (after (exec (.gfmul 7 1 1 4) (st #v[0x100, 0x57, 0x14D, 0xFF, 0x200, 0x400, 0x100000, 0xFFFFFFFF]))).map
    (fun t => (t.x[7], t.status)) = some (0xFFFFFFFF, 0x00000304) := by decide +kernel
/-- §3.2: 0xFF^7 mod 0x14D = 0x12. -/
theorem test_gfpow7 : (after (exec (.gfpow7 0 0 1) (st #v[0xFF, 0x14D, 0, 0, 0, 0, 0, 0]))).map (·.x[0]) = some 0x12 := by
  decide +kernel
/-- §4: `GFPOW7 r7, r0, r2` with b = 0x100 is OPERAND. -/
theorem test_gfpow7_operand : (after (exec (.gfpow7 7 0 2) (st #v[0x100, 0x57, 0x14D, 0, 0, 0, 0, 0]))).map State.status =
    some 0x00000304 := by decide +kernel
/-- R117: 0x12345678 permutes to 0x056F2360. -/
theorem test_perm32 : (after (exec (.perm32 4 4) (st #v[0, 0, 0, 0, 0x12345678, 0, 0, 0]))).map (·.x[4]) = some 0x056F2360 := by
  decide +kernel
/-- R146: SBOX[3][0x155] = 0x01280481. -/
theorem test_sbox : (after (exec (.sbox 5 4 3) (st #v[0, 0, 0, 0, 0x155, 0, 0, 0]))).map (·.x[5]) = some 0x01280481 := by
  decide +kernel
/-- §4: an index of 0x400 is OPERAND. -/
theorem test_sbox_operand : (after (exec (.sbox 7 5 0) (st #v[0, 0, 0, 0, 0, 0x400, 0, 0]))).map State.status =
    some 0x00000304 := by decide +kernel
/-- §3.6: F(0x12345678) with the subkeys of round 0 of the L1-2 seed. -/
theorem test_roundf : (after (exec (.roundf 0 0 1 2 3) (st #v[0x12345678, 0xB9913, 0xE15AE, 0xB1C2B, 0, 0, 0, 0]))).map (·.x[0]) =
    some 0x3A5976BD := by decide +kernel
/-- §3.6: bit 20 of sk2 is ignored. -/
theorem test_roundf_sk2 : (after (exec (.roundf 7 1 1 1 6) (st #v[0, 0x57, 0, 0, 0, 0, 0x100000, 0]))).map (·.x[7]) =
    some 0xE4686D6A := by decide +kernel
/-- R165: round 0 of the L1-2 seed on 0x9A621D72. -/
theorem test_roundk : (after (exec (.roundk 2 1 0) (keyed #v[0, 0x9A621D72, 0, 0, 0, 0, 0, 0]))).map (·.x[2]) =
    some 0x85ECC6FE := by decide +kernel
/-- §4: ROUNDK before any KEYSET is NOKEY. -/
theorem test_roundk_nokey : (after (exec (.roundk 0 1 0) (st (Vector.replicate 8 0)))).map State.status = some 0x00000204 := by
  decide +kernel
/-- R251: 0x000000AA ^ 0x000000CB. -/
theorem test_xor : (after (exec (.xor 3 0 1) (st #v[0xAA, 0xCB, 0, 0, 0, 0, 0, 0]))).map (·.x[3]) = some 0x00000061 := by
  decide +kernel
/-- R196: the first and last rounds of the L1-2 seed. -/
theorem test_keyset : (after (exec (.keyset 0 1) (st #v[0x52FDFC07, 0x2182654F, 0, 0, 0, 0, 0, 0]))).map
    (fun t => (t.ks[0], t.ks[15], t.keyValid)) =
    some (#v[0xB9913, 0xE15AE, 0xB1C2B], #v[0xB45AB, 0xE438E, 0x664C8], true) := by decide +kernel
/-- §3.5: rounds 7 and 8 of the seed 0123456789ABCDEF, where the second build takes over the registers. -/
theorem test_keyset_carry : (after (exec (.keyset 0 1) (st #v[0x01234567, 0x89ABCDEF, 0, 0, 0, 0, 0, 0]))).map
    (fun t => (t.ks[7], t.ks[8])) = some (#v[0x00C50, 0xA0035, 0xCA0F3], #v[0x06AF0, 0xFF65F, 0xAFF95]) := by decide +kernel
/-- R197: `KSRD r4, 15, 2` after that KEYSET. -/
theorem test_ksrd : (after (exec (.ksrd 4 15 2) (keyed (Vector.replicate 8 0)))).map (·.x[4]) = some 0x000664C8 := by
  decide +kernel
/-- §4: KSRD before any KEYSET is NOKEY. -/
theorem test_ksrd_nokey : (after (exec (.ksrd 0 0 0) (st (Vector.replicate 8 0)))).map State.status = some 0x00000204 := by
  decide +kernel
/-- L1-2: the known-answer vector, encrypted. -/
theorem test_enc_kat : (after (exec (.enc 2 3) (keyed #v[0, 0, 0x163F5F0F, 0x9A621D72, 0, 0, 0, 0]))).map
    (fun t => (t.x[2], t.x[3], t.status)) = some (0x1FFFCD22, 0xD2488A39, 0x00000002) := by decide +kernel
/-- §4: ENC before any KEYSET is NOKEY. -/
theorem test_enc_nokey : (after (exec (.enc 0 1) (st #v[1, 2, 0, 0, 0, 0, 0, 0]))).map (fun t => (t.x[0], t.status)) =
    some (1, 0x00000204) := by decide +kernel
/-- L1-2: the known-answer vector, decrypted. -/
theorem test_dec_kat : (after (exec (.dec 4 5) (keyed #v[0, 0, 0, 0, 0x1FFFCD22, 0xD2488A39, 0, 0]))).map
    (fun t => (t.x[4], t.x[5])) = some (0x163F5F0F, 0x9A621D72) := by decide +kernel
/-- §3.7: the L1-2 plaintext, decrypted. -/
theorem test_dec_plaintext : (after (exec (.dec 0 1) (keyed #v[0x163F5F0F, 0x9A621D72, 0, 0, 0, 0, 0, 0]))).map
    (fun t => (t.x[0], t.x[1])) = some (0x2D33EC2F, 0x659EADD3) := by decide +kernel

/-! ### One step -/

/-- §4, priority checks: from reset, `ENC r0, r0` is ILLEGAL, not NOKEY. -/
theorem test_step_illegal_first : (after (step (State.reset.withFetchWord 32 0x20000000))).map State.status =
    some 0x00000104 := by decide +kernel
/-- §4: from reset, `KSRD r0, 0, 0` is NOKEY. -/
theorem test_step_nokey : (after (step (State.reset.withFetchWord 32 0x11000000))).map State.status = some 0x00000204 := by
  decide +kernel
/-- §5: reads of ID and BLKSIZE. -/
theorem test_read_id : answerTo (st (Vector.replicate 8 0)) (readAt 0x00) = some ⟨false, some 0x49434531⟩ ∧
    answerTo (st (Vector.replicate 8 0)) (readAt 0x04) = some ⟨false, some 0x00000008⟩ := by decide +kernel
/-- §5: the register map's ends: R7 at 0x2C, and 0x30 reserved. -/
theorem test_read_ends : answerTo (st #v[0, 0, 0, 0, 0, 0, 0, 0xABCD]) (readAt 0x2C) = some ⟨false, some 0xABCD⟩ ∧
    answerTo (st (Vector.replicate 8 0)) (readAt 0x30) = some ⟨true, some 0x00000000⟩ := by decide +kernel
/-- §5: a write of ID, and a sub-word write of R0, are errors, and R0 keeps its value. -/
theorem test_write_errors : answerTo (st (Vector.replicate 8 0)) (writeAt 0x00 1) = some ⟨true, none⟩ ∧
    (after (step (facing (st (Vector.replicate 8 7)) [.access { writeAt 0x10 5 with be := 0b0011 }]))).map
      (fun t => (t.x[0], t.port.answers)) = some (7, [⟨true, none⟩]) := by decide +kernel
/-- §5: after a NOP is written to CMD, STATUS is 0x00000001 while it is pending. -/
theorem test_cmd_busy : (after (step (facing (st (Vector.replicate 8 0)) [.access (writeAt 0x0C 0)]))).map
    (fun t => (t.status, t.pend)) = some (0x00000001, .command 0) := by decide +kernel
/-- R62: a data register read is held while a command is pending, and stays to come. -/
theorem test_held : (after (step (facing (pending 0x07000043) [.access (readAt 0x10)]))).map
    (fun t => (t.port.todo, t.port.answers, t.pend)) = some ([.access (readAt 0x10)], [], .empty) := by decide +kernel
/-- R292: a reset abandons the pending command. -/
theorem test_reset_abandons : (after (step (facing (pending 0x07000043) [.reset (some (readAt 0x10))]))).map
    (fun t => (t.cmd, t.port.todo, t.port.answers)) = some (0, [], []) := by decide +kernel

/-! ### Witnesses: the hypotheses of each statement are met, each clause at the edges of its range -/

theorem witness_DecodeOfEncode : Instr.WellFormed (.enc 0 7) ∧ Instr.WellFormed (.dec 7 0) ∧ Instr.WellFormed (.ksrd 7 15 2) := by
  decide

theorem witness_EncodeOfDecode : decode 0x210001C0 = .ok (.dec 0 7) ∧ decode 0x11F80007 = .ok (.ksrd 7 15 2) := by decide +kernel

theorem witness_NonzeroUnused : (NonzeroUnused 0x00000001 ∧ (pending 0x00000001).pend = .command 0x00000001) ∧
    NonzeroUnused 0x21800001 := by
  unfold NonzeroUnused; decide +kernel

/-- The ends of the three ranges of undefined OP values, and a defined one. -/
theorem witness_UndefinedOp :
    (0x08 ≤ bitsAt 0x08000000 24 8 ∧ bitsAt 0x0F000000 24 8 ≤ 0x0F) ∧
    (0x12 ≤ bitsAt 0x12000000 24 8 ∧ bitsAt 0x1F000000 24 8 ≤ 0x1F) ∧
    (0x22 ≤ bitsAt 0x22000000 24 8 ∧ 0x22 ≤ bitsAt 0xFF000000 24 8) ∧ (pending 0x22000000).pend = .command 0x22000000 ∧
    ¬((0x08 ≤ 0x21 ∧ 0x21 ≤ 0x0F) ∨ (0x12 ≤ 0x21 ∧ 0x21 ≤ 0x1F) ∨ 0x22 ≤ 0x21) := by decide +kernel

theorem witness_ValueConstraints :
    ((pending 0x11FC0007).pend = .command 0x11FC0007 ∧ (0x11FC0007 : Word) &&& 0xFF03FFF8 = 0x11000000 ∧
      bitsAt 0x11FC0007 18 2 = 3) ∧
    ((pending 0x200001F8).pend = .command 0x200001F8 ∧ (0x200001F8 : Word) &&& 0xFFFFFE07 = 0x20000000 ∧
      bitsAt 0x200001F8 3 3 = bitsAt 0x200001F8 6 3) ∧
    ((0x21000000 : Word) &&& 0xFFFFFE07 = 0x21000000 ∧ bitsAt 0x21000000 3 3 = bitsAt 0x21000000 6 3) := by decide +kernel

/-- StepRunsDecodedCommand: the ways in which the engine is to move, with a command, a word that does not decode, and BUILD. -/
theorem witness_StepRunsDecodedCommand :
    (EngineToMove (pending 0x07000043) ∧ (pending 0x07000043).pend = .command 0x07000043 ∧
      decode 0x07000043 = .ok (.xor 3 0 1)) ∧
    EngineToMove (facing (pending 0x00000001) [.access (writeAt 0x08 1)]) ∧
    EngineToMove (facing (pending 0x00000001) [.access (readAt 0x0C)]) ∧
    EngineToMove (facing { State.reset with pend := .build } []) :=
  ⟨⟨⟨rfl, .inl rfl⟩, rfl, by decide +kernel⟩, ⟨rfl, .inr ⟨_, _, rfl, .inl rfl⟩⟩, ⟨rfl, .inr ⟨_, _, rfl, .inr (by decide)⟩⟩,
    rfl, .inl rfl⟩

/-- The smallest and the largest modulus (GfMulIsPolynomialProduct, GfPow7IsSeventhPower, GfmulCommand, Gfpow7Command). -/
theorem witness_modulus : (0x100#9).getLsbD 8 = true ∧ (0x1FF#9).getLsbD 8 = true := by decide

/-- A chain of powers (GfPow7IsSeventhPower). -/
theorem witness_GfPow7_chain : gfMul 0x61 0x61 0x1A9 = 0x8B ∧ gfMul 0x61 0x8B 0x1A9 = 0xAF ∧ gfMul 0xAF 0xAF 0x1A9 = 0x0C := by
  decide +kernel

/-- Positions at both ends (Perm32MovesEachBit). -/
theorem witness_Perm32_positions : 0 < 32 ∧ 31 < 32 := by decide

/-- For each row of R84, a word that fails its mask test (`IllegalOutside` in each command's statement). -/
theorem witness_IllegalOutside :
    ([(0x00, 0xFFFFFFFF, 0x00000000, 0x00000001), (0x01, 0xFFFFF000, 0x01000000, 0x01001000),
      (0x02, 0xFFFFFE00, 0x02000000, 0x02000200), (0x03, 0xFFFFFFC0, 0x03000000, 0x03000040),
      (0x04, 0xFFF3FFC0, 0x04000000, 0x04000040), (0x05, 0xFFFF8000, 0x05000000, 0x05008000),
      (0x06, 0xFF0FFFC0, 0x06000000, 0x06008000), (0x07, 0xFFFFFE00, 0x07000000, 0x07000200),
      (0x10, 0xFFFFFE07, 0x10000000, 0x10000001), (0x11, 0xFF03FFF8, 0x11000000, 0x11000008),
      (0x20, 0xFFFFFE07, 0x20000000, 0x20000007), (0x21, 0xFFFFFE07, 0x21000000, 0x21800040)] : List (Nat × Word × Word × Word)).all
      (fun r => bitsAt r.2.2.2 24 8 = r.1 ∧ r.2.2.2 &&& r.2.1 ≠ r.2.2.1 ∧ (pending r.2.2.2).pend = .command r.2.2.2) = true := by
  decide +kernel

/-- For each row of R84, a word that passes its mask test with every field at its greatest value (the decode clauses). -/
theorem witness_decode_clauses :
    ((0x01000FFF : Word) &&& 0xFFFFF000 = 0x01000000 ∧ (7 : Reg).val = bitsAt 0x01000FFF 0 3 ∧
      (7 : Reg).val = bitsAt 0x01000FFF 3 3 ∧ (7 : Reg).val = bitsAt 0x01000FFF 6 3 ∧ (7 : Reg).val = bitsAt 0x01000FFF 9 3) ∧
    ((0x020001FF : Word) &&& 0xFFFFFE00 = 0x02000000 ∧ (7 : Reg).val = bitsAt 0x020001FF 0 3 ∧
      (7 : Reg).val = bitsAt 0x020001FF 3 3 ∧ (7 : Reg).val = bitsAt 0x020001FF 6 3) ∧
    ((0x0300003F : Word) &&& 0xFFFFFFC0 = 0x03000000 ∧ (7 : Reg).val = bitsAt 0x0300003F 0 3 ∧
      (7 : Reg).val = bitsAt 0x0300003F 3 3) ∧
    ((0x040C003F : Word) &&& 0xFFF3FFC0 = 0x04000000 ∧ (7 : Reg).val = bitsAt 0x040C003F 0 3 ∧
      (7 : Reg).val = bitsAt 0x040C003F 3 3 ∧ (3 : Fin 4).val = bitsAt 0x040C003F 18 2) ∧
    ((0x05007FFF : Word) &&& 0xFFFF8000 = 0x05000000 ∧ (7 : Reg).val = bitsAt 0x05007FFF 0 3 ∧
      (7 : Reg).val = bitsAt 0x05007FFF 3 3 ∧ (7 : Reg).val = bitsAt 0x05007FFF 6 3 ∧ (7 : Reg).val = bitsAt 0x05007FFF 9 3 ∧
      (7 : Reg).val = bitsAt 0x05007FFF 12 3) ∧
    ((0x06F0003F : Word) &&& 0xFF0FFFC0 = 0x06000000 ∧ (7 : Reg).val = bitsAt 0x06F0003F 0 3 ∧
      (7 : Reg).val = bitsAt 0x06F0003F 3 3 ∧ (15 : Fin 16).val = bitsAt 0x06F0003F 20 4) ∧
    ((0x070001FF : Word) &&& 0xFFFFFE00 = 0x07000000 ∧ (7 : Reg).val = bitsAt 0x070001FF 0 3 ∧
      (7 : Reg).val = bitsAt 0x070001FF 3 3 ∧ (7 : Reg).val = bitsAt 0x070001FF 6 3) ∧
    ((0x100001F8 : Word) &&& 0xFFFFFE07 = 0x10000000 ∧ (7 : Reg).val = bitsAt 0x100001F8 3 3 ∧
      (7 : Reg).val = bitsAt 0x100001F8 6 3) ∧
    ((0x11F80007 : Word) &&& 0xFF03FFF8 = 0x11000000 ∧ (7 : Reg).val = bitsAt 0x11F80007 0 3 ∧
      (15 : Fin 16).val = bitsAt 0x11F80007 20 4 ∧ (2 : Fin 3).val = bitsAt 0x11F80007 18 2) ∧
    ((0x20000038 : Word) &&& 0xFFFFFE07 = 0x20000000 ∧ (7 : Reg).val = bitsAt 0x20000038 3 3 ∧
      (0 : Reg).val = bitsAt 0x20000038 6 3 ∧ (7 : Reg) ≠ 0) ∧
    ((0x210001C0 : Word) &&& 0xFFFFFE07 = 0x21000000 ∧ (0 : Reg).val = bitsAt 0x210001C0 3 3 ∧
      (7 : Reg).val = bitsAt 0x210001C0 6 3 ∧ (0 : Reg) ≠ 7) := by decide +kernel

/-- The two words that the value constraints refuse (KsrdCommand, EncCommand, DecCommand). -/
theorem witness_value_clauses :
    (bitsAt 0x110C0007 24 8 = 0x11 ∧ bitsAt 0x110C0007 18 2 = 3 ∧ (pending 0x110C0007).pend = .command 0x110C0007) ∧
    (bitsAt 0x20000000 24 8 = 0x20 ∧ bitsAt 0x20000000 3 3 = bitsAt 0x20000000 6 3 ∧
      (pending 0x20000000).pend = .command 0x20000000) ∧
    (bitsAt 0x210001F8 24 8 = 0x21 ∧ bitsAt 0x210001F8 3 3 = bitsAt 0x210001F8 6 3 ∧
      (pending 0x210001F8).pend = .command 0x210001F8) := by decide +kernel

/-- Registers at the edges of the operand ranges. -/
def edges : State := st #v[0xFF, 0x100, 0x1FF, 0x200, 0x3FF, 0x400, 0xFFFFF, 0x100000]

/-- GfmulCommand: in range at both ends of the modulus, and each cause of OPERAND at its edge. -/
theorem witness_GfmulCommand :
    (edges.x[0] ≤ 0xFF#32 ∧ 0x100#32 ≤ edges.x[1] ∧ edges.x[1] ≤ 0x1FF#32 ∧ 0x100#32 ≤ edges.x[2] ∧ edges.x[2] ≤ 0x1FF#32) ∧
    0xFF#32 < edges.x[1] ∧ edges.x[0] < 0x100#32 ∧ 0x1FF#32 < edges.x[3] := by decide

/-- Gfpow7Command: the same edges. -/
theorem witness_Gfpow7Command :
    (edges.x[0] ≤ 0xFF#32 ∧ 0x100#32 ≤ edges.x[2] ∧ edges.x[2] ≤ 0x1FF#32) ∧
    0xFF#32 < edges.x[1] ∧ edges.x[0] < 0x100#32 ∧ 0x1FF#32 < edges.x[3] := by decide

/-- SboxContents: the column and row of the least and the greatest index. -/
theorem witness_SboxContents :
    (0 = (0#10).toNat / 2 % 256 ∧ 0 = 2 * ((0#10).toNat / 512) + (0#10).toNat % 2) ∧
    (255 = (0x3FF#10).toNat / 2 % 256 ∧ 3 = 2 * ((0x3FF#10).toNat / 512) + (0x3FF#10).toNat % 2) := by decide

/-- SboxTablesAreDisjoint: two tables. -/
theorem witness_SboxTables : (0 : Fin 4) ≠ 3 := by decide

/-- SboxCommand: 0x3FF is an index, 0x400 is not. -/
theorem witness_SboxCommand : edges.x[4] ≤ 0x3FF#32 ∧ 0x3FF#32 < edges.x[5] := by decide

/-- ExpansionOfHalfBlock, KeyMixingSwapsBySk2: bit numbers at both ends. -/
theorem witness_bit_numbers : 0 < 20 ∧ 19 < 20 ∧ 31 < 32 := by decide

/-- RoundFunctionLookups: a mixed pair. -/
theorem witness_RoundFunctionLookups :
    (0xF7AAD#20, 0x6FAEF#20) = keyMix (expandLeft 0xDEADBEEF) (expandRight 0xDEADBEEF) #v[0, 0, 0] := by decide +kernel

/-- RoundfCommand: 0xFFFFF is a subkey, 0x100000 is not. -/
theorem witness_RoundfCommand : edges.x[6] ≤ 0xFFFFF#32 ∧ 0xFFFFF#32 < edges.x[7] := by decide

/-- `NopCommand`: the state of R250's example. -/
theorem witness_NopCommand : ({ edges with keyValid := true, eflag := true, err := 1 } : State).status = 0x00000106 := by
  decide +kernel

/-- KEYVALID set and not set, with registers that differ (RoundkCommand, KsrdCommand, EncCommand, DecCommand,
UnsetKeyScheduleIsUnobservable). -/
theorem witness_keyValid : (keyed (Vector.replicate 8 0)).keyValid = true ∧ edges.keyValid = false ∧ (0 : Reg) ≠ 7 ∧
    (3 : Reg) ≠ 0 ∧ (3 : Reg) ≠ 7 := by decide

/-- KeyScheduleClosedForm: the first bit of round 0 and the last of round 15. -/
theorem witness_KeyScheduleClosedForm :
    (0 < 5 ∧ 0 < 4 ∧ 0 = 15 * (0 : Fin 16).val + 3 * 0 + (0 : Fin 3).val ∧ 0 = (0 + 0) % 4) ∧
    (4 < 5 ∧ 3 < 4 ∧ 239 = 15 * (15 : Fin 16).val + 3 * 4 + (2 : Fin 3).val ∧ 1 = (2 + 3) % 4) := by decide

/-- KeysetCommand: a seed's bytes in two registers. -/
theorem witness_KeysetCommand : (st #v[0x52FDFC07, 0x2182654F, 0, 0, 0, 0, 0, 0]).x[0] = 0x52#8 ++ 0xFD#8 ++ 0xFC#8 ++ 0x07#8 ∧
    (st #v[0x52FDFC07, 0x2182654F, 0, 0, 0, 0, 0, 0]).x[1] = 0x21#8 ++ 0x82#8 ++ 0x65#8 ++ 0x4F#8 := by decide

/-- EncryptRecurrence: halves that follow R220's loop, from any block and any schedule. -/
theorem witness_EncryptRecurrence (ks : Schedule) (l0 r0 : Word) : ∃ l r : Nat → Word, l 0 = l0 ∧ r 0 = r0 ∧
    ∀ k : Fin 8, l (k + 1) = l k ^^^ roundF (r k) ks[2 * k.val] ∧
      r (k + 1) = r k ^^^ roundF (l (k + 1)) ks[2 * k.val + 1] := by
  let f : Nat → Word × Word := fun n => Nat.rec (l0, r0) (fun k p =>
    feistelStep ks p (Fin.ofNat 16 (2 * k), Fin.ofNat 16 (2 * k + 1))) n
  refine ⟨fun n => (f n).1, fun n => (f n).2, rfl, rfl, fun k => ?_⟩
  have h1 : 2 * k.val % 16 = 2 * k.val := Nat.mod_eq_of_lt (by omega)
  have h2 : (2 * k.val + 1) % 16 = 2 * k.val + 1 := Nat.mod_eq_of_lt (by omega)
  simp [f, feistelStep, Fin.ofNat, h1, h2]

/-- DecryptRecurrence: halves that follow R221's loop, from any block and any schedule. -/
theorem witness_DecryptRecurrence (ks : Schedule) (l0 r0 : Word) : ∃ l r : Nat → Word, l 0 = l0 ∧ r 0 = r0 ∧
    ∀ k : Fin 8, l (k + 1) = l k ^^^ roundF (r k) ks[15 - 2 * k.val] ∧
      r (k + 1) = r k ^^^ roundF (l (k + 1)) ks[14 - 2 * k.val] := by
  let f : Nat → Word × Word := fun n => Nat.rec (l0, r0) (fun k p =>
    feistelStep ks p (Fin.ofNat 16 (15 - 2 * k), Fin.ofNat 16 (14 - 2 * k))) n
  refine ⟨fun n => (f n).1, fun n => (f n).2, rfl, rfl, fun k => ?_⟩
  have h1 : (15 - 2 * k.val) % 16 = 15 - 2 * k.val := Nat.mod_eq_of_lt (by omega)
  have h2 : (14 - 2 * k.val) % 16 = 14 - 2 * k.val := Nat.mod_eq_of_lt (by omega)
  simp [f, feistelStep, Fin.ofNat, h1, h2]

/-- EveryCommandEndsWithOneCode, CodeCausesAndPriority: a word of each kind, in a state of each kind. -/
theorem witness_CodeCauses :
    (pending 0x00000001).pend = .command 0x00000001 ∧ IllegalWord 0x00000001 ∧ ¬IllegalWord 0x07000043 ∧
    (readsKs (.enc 0 1) = true ∧ edges.keyValid = false) ∧ OutOfDomain edges (.gfmul 0 0 0 3) ∧
    ¬OutOfDomain edges (.gfmul 0 0 0 2) ∧ OutOfDomain edges (.sbox 0 5 0) ∧ OutOfDomain edges (.roundf 0 0 7 0 0) := by
  unfold IllegalWord UndefinedOp NonzeroUnused BadValue OutOfDomain
  decide +kernel

/-- EflagIsSticky: an engine step that ends with an error sets EFLAG, and a step from a state with EFLAG set. -/
theorem witness_EflagIsSticky :
    (pending 0x08000000).pend = .command 0x08000000 ∧
    (after (engineStep (pending 0x08000000))).map (fun t => (t.err, t.eflag)) = some (1, true) ∧
    (after (step { pending 0x00000000 with eflag := true })).map (fun t => (t.err, t.eflag)) = some (0, true) := by
  decide +kernel

/-- OnlyKeysetWritesKey: a step that changes the key. -/
theorem witness_OnlyKeysetWritesKey :
    (after (step (pending 0x10000040))).map (fun t => (t.keyValid, t.ks[1][0] != (pending 0x10000040).ks[1][0])) =
      some (true, true) := by
  decide +kernel

/-- BusReadsAndWrites, reads: the first and the last readable slot. -/
theorem witness_BusReadsAndWrites_reads : edges.busy = false ∧ (facing edges [.access (readAt 0x00)]).port.todo = [.access (readAt 0x00)] ∧
    (readAt 0x00).we = false ∧ (readAt 0x2C).be = 0b1111 ∧ (readAt 0x2C).addr.toNat = 11 ∧ (readAt 0x2C).addr.toNat < 12 ∧
    (readAt 0x00).addr = 0 ∧ (readAt 0x04).addr = 1 ∧ (readAt 0x08).addr = 2 ∧ (readAt 0x0C).addr = 3 ∧
    (readAt 0x10).addr.toNat = (0 : Reg).val + 4 ∧ (readAt 0x2C).addr.toNat = (7 : Reg).val + 4 := by decide

/-- BusReadsAndWrites, writes: CMD and the ends of the data registers. -/
theorem witness_BusReadsAndWrites_writes : edges.busy = false ∧
    (facing edges [.access (writeAt 0x0C 1)]).port.todo = [.access (writeAt 0x0C 1)] ∧ (writeAt 0x0C 1).we = true ∧
    (writeAt 0x0C 1).be = 0b1111 ∧ (writeAt 0x0C 1).addr = 3 ∧ (writeAt 0x10 1).addr.toNat = (0 : Reg).val + 4 ∧
    (writeAt 0x2C 1).addr.toNat = (7 : Reg).val + 4 := by decide

/-- BusErrors: each cause at its edge, and a held access. -/
theorem witness_BusErrors : edges.busy = false ∧ ({ readAt 0x10 with be := 0b0111 } : Access).be ≠ 0b1111 ∧
    12 ≤ (readAt 0x30).addr.toNat ∧ ((writeAt 0x08 0).we = true ∧ (writeAt 0x08 0).addr.toNat < 3) ∧
    (facing edges [.access (readAt 0x30)]).port.todo = [.access (readAt 0x30)] ∧
    ((pending 0).busy = true ∧ (readAt 0x30).addr ≠ 2) := by decide

/-- BusyHoldsAccesses: a held write of STATUS's slot, a held read beside it, and a STATUS read, whole and with one byte off. -/
theorem witness_BusyHoldsAccesses : (pending 0).busy = true ∧
    (facing (pending 0) [.access (writeAt 0x08 0)]).port.todo = [.access (writeAt 0x08 0)] ∧ (writeAt 0x08 0).we = true ∧
    (readAt 0x0C).addr ≠ 2 ∧ ((readAt 0x08).we = false ∧ (readAt 0x08).addr = 2 ∧ (readAt 0x08).be = 0b1111) ∧
    ({ readAt 0x08 with be := 0b0111 } : Access).addr = 2 ∧ ({ readAt 0x08 with be := 0b0111 } : Access).be ≠ 0b1111 := by
  decide

/-- WriteAnswersCarryNoData: a write that is answered OK, and one that is answered ERROR. -/
theorem witness_WriteAnswersCarryNoData : edges.busy = false ∧
    (∃ t, step (facing edges [.access (writeAt 0x2C 1)]) = .next t) ∧ (writeAt 0x2C 1).we = true ∧
    (∃ t, step (facing edges [.access (writeAt 0x00 1)]) = .next t) ∧ (writeAt 0x00 1).we = true :=
  ⟨rfl, ⟨_, rfl⟩, rfl, ⟨_, rfl⟩, rfl⟩

/-- WindowAddresses: an address just past the window. -/
theorem witness_WindowAddresses : Config.iceBase + 64 ≤ Config.iceBase + 64 := Nat.le_refl _

/-- ResetAbandonsCommand, EflagIsSticky, OnlyKeysetWritesKey: a reset to come while a command is pending. -/
theorem witness_ResetNext : ResetNext (facing (pending 0x07000043) [.reset (some (readAt 0x10))]) := ⟨_, _, rfl⟩

/-- BuildRunsOnceAfterReset: BUILD in PEND, and an access that it holds. -/
theorem witness_Build : ({ State.reset with pend := .build } : State).pend = .build ∧
    (facing { State.reset with pend := .build } [.access (readAt 0x10)]).port.todo = [.access (readAt 0x10)] ∧
    (readAt 0x10).addr ≠ 2 := ⟨rfl, rfl, by decide⟩

/-- BusyEndsInFiniteTime: a busy block whose host polls, resets it and then reads; and a held access. -/
theorem witness_BusyEnds :
    (facing (pending 0x10000040) [.access (readAt 0x08), .reset none, .access (readAt 0x10)]).busy = true ∧
    (facing (pending 0x10000040) [.access (readAt 0x10)]).port.todo = [.access (readAt 0x10)] := ⟨rfl, rfl⟩

/-- PollingChangesNoResult: a host that polls before a CMD write and one that does not, both runs over in four steps. -/
theorem witness_PollingChangesNoResult :
    BlockKept (facing edges [.access (readAt 0x08), .access (writeAt 0x0C 0)]) (facing edges [.access (writeAt 0x0C 0)]) ∧
    (facing edges [.access (writeAt 0x0C 0)]).port.todo =
      (facing edges [.access (readAt 0x08), .access (writeAt 0x0C 0)]).port.todo.filter (fun move => !move.isPoll) ∧
    (∃ t, Host.Core.run core 4 (facing edges [.access (readAt 0x08), .access (writeAt 0x0C 0)]) = .next t ∧ Quiet t) ∧
    (∃ t, Host.Core.run core 4 (facing edges [.access (writeAt 0x0C 0)]) = .next t ∧ Quiet t) :=
  ⟨rfl, by decide +kernel, ⟨_, rfl, rfl, rfl⟩, ⟨_, rfl, rfl, rfl⟩⟩

/-- InvariantKept: a state with a command pending has the invariant. -/
theorem witness_InvariantKept : (pending 0x07000043).Inv := by
  refine ⟨by decide, by decide, ?_, ?_, fun h => by cases h⟩
  · intro _ r j; simp [pending, st, State.reset]
  · intro w h; cases h; rfl

/-- UnsetKeyScheduleIsUnobservable, InvariantKept: what every step from these states answers. -/
theorem witness_step_answers : (after (step (pending 0x07000043))).isSome = true := by decide +kernel

end Sys2Proof.Tests
end

section
/-! The platform addresses of the register window (R7, R52). They are facts about every base: the lemmas use of `ICE_BASE` only
that it is counted in units of 64 bytes. -/

namespace Sys2Proof.Machine

/-- R7, R52: the base is 64-byte aligned. -/
theorem iceBase_mod : Config.iceBase % 64 = 0 := Nat.mul_mod_right 64 Config.iceBaseUnits

/-- Word `n` of the window stands at `ICE_BASE + 4n`. -/
theorem windowSlot_word {n : Nat} (hn : n < 16) : windowSlot (Config.iceBase + 4 * n) = some (BitVec.ofNat 4 n) := by
  have hin : Config.iceBase ≤ Config.iceBase + 4 * n ∧ Config.iceBase + 4 * n < Config.iceBase + 64 ∧
      (Config.iceBase + 4 * n - Config.iceBase) % 4 = 0 := by omega
  have hslot : (Config.iceBase + 4 * n - Config.iceBase) / 4 = n := by omega
  rw [windowSlot, if_pos hin, hslot]

/-- No address outside the 64 bytes of the window selects a slot. -/
theorem windowSlot_outside {address : Nat} (hout : address < Config.iceBase ∨ Config.iceBase + 64 ≤ address) :
    windowSlot address = none :=
  if_neg fun ⟨hlow, hhigh, _⟩ => by omega

/-- Settles O43: the three clauses are the alignment of the base, the address of each word, and the addresses outside. -/
theorem windowAddresses : Obligations.WindowAddresses :=
  ⟨iceBase_mod, fun n => windowSlot_word n.isLt, fun _ => windowSlot_outside⟩

end Sys2Proof.Machine
end

section
/-! What one step can leave, said once, and what follows for the state (spec/10_state.md): only a KEYSET writes the key, EFLAG is
sticky, every step keeps the invariant, KS is hidden while KEYVALID = 0, and the layout of STATUS. -/

namespace Sys2Proof.Machine

/-! ### What a command's end leaves -/

/-- R28: codes 4..15 are never produced. -/
theorem Code.bits_le (c : Code) : c.bits ≤ 3#4 := by cases c <;> decide

/-- R27: what completes with ERR other than 0 leaves EFLAG set. -/
theorem Completed.eflag_of_err_ne_zero {c : BitVec 4} {s t : State} (h : Completed c s t) (herr : t.err ≠ 0) :
    t.eflag = true := by
  obtain ⟨hc, he, -⟩ := h
  rw [he, bne_iff_ne.mpr (hc ▸ herr), Bool.or_true]

/-- The completion update leaves what `Completed` says of it (R262). -/
theorem completed_finish (s : State) (c : Code) : Completed c.bits s (s.finish c) := by
  obtain ⟨herr, hflag, -⟩ := s.finish_next c
  exact ⟨herr, hflag, rfl, rfl, rfl⟩

/-- Every command ends with the completion update of some code. -/
theorem Ended.completed {i : Instr} {s t : State} (h : Ended i s t) : ∃ c : Code, Completed c.bits s t := by
  cases h with
  | failed c _ => exact ⟨c, completed_finish s c⟩
  | unwritten => exact ⟨.ok, completed_finish s .ok⟩
  | written rd v => exact ⟨.ok, completed_finish (s.writeReg rd v) .ok⟩
  | block ra rb b => exact ⟨.ok, completed_finish ((s.writeReg ra b.1).writeReg rb b.2) .ok⟩
  | keyed ra rb _ => exact ⟨.ok, completed_finish (s.writeKs _) .ok⟩

/-- KEYSET alone writes KS and KEYVALID, and it leaves KEYVALID = 1 (R26, R32). -/
theorem Ended.keyKept_or_keyset {i : Instr} {s t : State} (h : Ended i s t) :
    KeyKept s t ∨ (∃ ra rb, i = .keyset ra rb) ∧ t.keyValid = true := by
  cases h with
  | failed => exact .inl ⟨rfl, rfl⟩
  | unwritten => exact .inl ⟨rfl, rfl⟩
  | written => exact .inl ⟨rfl, rfl⟩
  | block => exact .inl ⟨rfl, rfl⟩
  | keyed ra rb hi => exact .inr ⟨⟨ra, rb, hi⟩, rfl⟩

/-- The engine has completed the word `w`: with some code, and only a KEYSET wrote the key. -/
structure Ran (w : Word) (s t : State) : Prop where
  completed : ∃ c : Code, Completed c.bits s t
  key : KeyKept s t ∨ (∃ ra rb, decode w = .ok (.keyset ra rb)) ∧ t.keyValid = true

/-- A word that the decoder refuses ends with ILLEGAL, and one that it accepts ends as its command does (R263). -/
theorem ran_of_engineStep {s t : State} {w : Word} (hp : s.pend = .command w) (h : engineStep s = .next t) : Ran w s t := by
  rcases engineStep_cases s with ⟨hp', -⟩ | ⟨hp', -⟩ | ⟨w', i, t', hp', hd, -, he, hend⟩ | ⟨w', e, -, -, he⟩
  · cases hp.symm.trans hp'
  · cases hp.symm.trans hp'
  · cases hp.symm.trans hp'
    cases he.symm.trans h
    refine ⟨hend.completed, hend.keyKept_or_keyset.imp_right ?_⟩
    rintro ⟨⟨ra, rb, rfl⟩, hv⟩
    exact ⟨⟨ra, rb, hd⟩, hv⟩
  · cases he.symm.trans h
    exact ⟨⟨.illegal, completed_finish s .illegal⟩, .inl ⟨rfl, rfl⟩⟩

/-! ### What one step leaves -/

/-- The states one step can lead to. -/
inductive Effect (s : State) : State → Prop
  /-- The host's reset: the block takes the values of R291. -/
  | reset (h : ResetNext s) (p : Port) : Effect s { State.reset with port := p }
  /-- An access that writes nothing, or no move at all: the block stays. -/
  | kept (p : Port) : Effect s { s with port := p }
  /-- A CMD write, made only while PEND is empty (R62). -/
  | issued (hp : s.pend = .empty) (w : Word) (p : Port) : Effect s { s.issue w with port := p }
  /-- A write of a data register, made only while PEND is empty (R62). -/
  | written (hp : s.pend = .empty) (r : Reg) (v : Word) (p : Port) : Effect s { s.writeReg r v with port := p }
  /-- The end of the reset-time build (R293). -/
  | built (hp : s.pend = .build) : Effect s s.buildDone
  /-- The engine completed the word in PEND (R263). -/
  | ran {t : State} {w : Word} (hp : s.pend = .command w) (hr : Ran w s t) : Effect s t

/-- An access that is not held: it writes nothing, or the block is not busy and it writes CMD or a data register. -/
theorem effect_serve {s : State} {a : Access} (rest : List HostMove) (h : s.busy = false ∨ a.isStatusRead = true) :
    Effect s (s.serve a rest) := by
  rcases respond_cases a s with hr | ⟨v, -, -, -, hr⟩ | ⟨s', -, hwe, hm, hr⟩
  · rw [State.serve, hr]; exact .kept _
  · rw [State.serve, hr]; exact .kept _
  · have hread : a.isStatusRead = false := by simp [Access.isStatusRead, hwe]
    have hp : s.pend = .empty := s.busy_eq_false_iff.mp (h.resolve_right (by simp [hread]))
    rw [State.serve, hr]
    rcases memWrite_cases hm with ⟨-, rfl⟩ | ⟨r, -, rfl⟩
    · exact .issued hp _ _
    · exact .written hp r _ _

theorem effect_engineStep {s t : State} (h : engineStep s = .next t) : Effect s t := by
  rcases engineStep_cases s with ⟨-, he⟩ | ⟨hp, he⟩ | ⟨w, i, t', hp, -⟩ | ⟨w, e, hp, -⟩
  · cases he.symm.trans h
    exact .kept s.port
  · cases he.symm.trans h
    exact .built hp
  · exact .ran hp (ran_of_engineStep hp h)
  · exact .ran hp (ran_of_engineStep hp h)

/-- Everything one step can leave. -/
theorem effect_step {s t : State} (h : step s = .next t) : Effect s t := by
  rcases step_cases s with ⟨p, rest, htodo, hs⟩ | ⟨a, rest, -, hfree, hs⟩ | ⟨-, -, hs⟩ | ⟨-, -, hs⟩
  · cases hs.symm.trans h
    exact .reset ⟨p, rest, htodo⟩ _
  · cases hs.symm.trans h
    exact effect_serve rest hfree
  · exact effect_engineStep (hs ▸ h)
  · cases hs.symm.trans h
    exact .kept s.port

/-! ### The key and EFLAG -/

/-- Settles O37: of the effects of a step, only a reset and a completed KEYSET change the key. -/
theorem onlyKeysetWritesKey : Obligations.OnlyKeysetWritesKey := by
  intro s t hstep hkey
  cases effect_step hstep with
  | reset h => exact .inr h
  | kept => exact absurd ⟨rfl, rfl⟩ hkey
  | issued => exact absurd ⟨rfl, rfl⟩ hkey
  | written => exact absurd ⟨rfl, rfl⟩ hkey
  | built => exact absurd ⟨rfl, rfl⟩ hkey
  | ran hp hr =>
    obtain ⟨⟨ra, rb, hd⟩, hv⟩ := hr.key.resolve_left hkey
    exact .inl ⟨_, ra, rb, hp, hd, hv⟩

/-- EFLAG after a step: only reset clears it. -/
theorem Effect.eflag_kept {s t : State} (h : Effect s t) (he : s.eflag = true) : t.eflag = true ∨ ResetNext s := by
  cases h with
  | reset h => exact .inr h
  | kept => exact .inl he
  | issued => exact .inl he
  | written => exact .inl he
  | built => exact .inl he
  | ran _ hr =>
    obtain ⟨c, -, hflag, -⟩ := hr.completed
    exact .inl (by rw [hflag, he, Bool.true_or])

/-- EFLAG after a step: it is set only together with an error code in ERR. -/
theorem Effect.eflag_set {s t : State} (h : Effect s t) (he : t.eflag = true) : s.eflag = true ∨ t.err ≠ 0 := by
  cases h with
  | reset => cases he
  | kept => exact .inl he
  | issued => exact .inl he
  | written => exact .inl he
  | built => exact .inl he
  | ran _ hr =>
    obtain ⟨c, herr, hflag, -⟩ := hr.completed
    rwa [hflag, Bool.or_eq_true, bne_iff_ne, ← herr] at he

/-- Settles O36: the engine completes the word in PEND, and the rest is the effects of a step. -/
theorem eflagIsSticky : Obligations.EflagIsSticky := by
  refine ⟨fun s t w hp hstep herr => ?_, fun s t hstep => (effect_step hstep).eflag_kept,
    fun s t hstep => (effect_step hstep).eflag_set⟩
  obtain ⟨c, hc⟩ := (ran_of_engineStep hp hstep).completed
  exact hc.eflag_of_err_ne_zero herr

/-! ### The invariant -/

theorem Pend.reset_ne_command (w : Word) : Pend.reset ≠ .command w := by
  unfold Pend.reset; split <;> exact Pend.noConfusion

theorem Pend.sboxBuildAtReset_of_reset (h : Pend.reset = .build) : Config.sboxBuildAtReset = true := by
  unfold Pend.reset at h
  split at h
  · assumption
  · cases h

/-- Settles O51: the values of R291, clause by clause. -/
theorem invariantAtReset : Obligations.InvariantAtReset where
  errLegal := by decide
  errFlagged h := absurd rfl h
  keyUnset _ r j := by simp [State.reset]
  cmdHeld w h := absurd h (Pend.reset_ne_command w)
  buildFresh h := ⟨Pend.sboxBuildAtReset_of_reset h, rfl⟩

/-- The invariant speaks of the block only. -/
theorem State.Inv.withPort {s : State} (h : s.Inv) (p : Port) : ({ s with port := p } : State).Inv where
  errLegal := h.errLegal
  errFlagged := h.errFlagged
  keyUnset := h.keyUnset
  cmdHeld := h.cmdHeld
  buildFresh := h.buildFresh

theorem State.Inv.issue {s : State} (h : s.Inv) (w : Word) : (s.issue w).Inv where
  errLegal := h.errLegal
  errFlagged := h.errFlagged
  keyUnset := h.keyUnset
  cmdHeld _ hw := Pend.command.inj hw
  buildFresh hb := by cases hb

/-- A data register is written only while PEND is empty, so BUILD does not stand there. -/
theorem State.Inv.writeReg {s : State} (h : s.Inv) (hp : s.pend = .empty) (r : Reg) (v : Word) : (s.writeReg r v).Inv where
  errLegal := h.errLegal
  errFlagged := h.errFlagged
  keyUnset := h.keyUnset
  cmdHeld := h.cmdHeld
  buildFresh hb := by cases hp.symm.trans hb

theorem State.Inv.buildDone {s : State} (h : s.Inv) : s.buildDone.Inv where
  errLegal := h.errLegal
  errFlagged := h.errFlagged
  keyUnset := h.keyUnset
  cmdHeld _ hw := by cases hw
  buildFresh hb := by cases hb

/-- A completed word leaves a legal code and an empty PEND; where KEYVALID = 0 after it, it left KS alone. -/
theorem State.Inv.ran {s t : State} {w : Word} (h : s.Inv) (hr : Ran w s t) : t.Inv := by
  obtain ⟨c, hc⟩ := hr.completed
  have hflag := hc.eflag_of_err_ne_zero
  obtain ⟨herr, -, hpend, -⟩ := hc
  refine ⟨herr ▸ c.bits_le, hflag, fun hv r j => ?_, fun w hw => ?_, fun hb => ?_⟩
  · obtain ⟨hks, hkv⟩ := hr.key.resolve_right (by simp [hv])
    rw [hks, h.keyUnset (hkv ▸ hv)]
  · cases hpend.symm.trans hw
  · cases hpend.symm.trans hb

/-- Settles O52: each effect of a step keeps the invariant. -/
theorem invariantKept : Obligations.InvariantKept := by
  intro s t hinv hstep
  cases effect_step hstep with
  | reset _ p => exact State.Inv.withPort invariantAtReset p
  | kept p => exact hinv.withPort p
  | issued _ w p => exact (hinv.issue w).withPort p
  | written hp r v p => exact (hinv.writeReg hp r v).withPort p
  | built => exact hinv.buildDone
  | ran _ hr => exact hinv.ran hr

/-! ### While KEYVALID = 0, KS is hidden -/

/-- Two results that differ in KS at most, and in nothing once KEYVALID = 1. -/
def KsHidden (r r' : Result) : Prop :=
  ∃ t k', r = .next t ∧ r' = .next { t with ks := k' } ∧ (t.keyValid = true → k' = t.ks)

theorem KsHidden.refl (t : State) : KsHidden (.next t) (.next t) := ⟨t, t.ks, rfl, rfl, fun _ => rfl⟩

theorem KsHidden.of_unset {r r' : Result} {t : State} {k : Schedule} (h : r = .next t)
    (h' : r' = .next { t with ks := k }) (hv : t.keyValid = false) : KsHidden r r' :=
  ⟨t, k, h, h', fun hv' => by simp [hv] at hv'⟩

section
variable {s : State} (hv : s.keyValid = false) (k : Schedule)
include hv

theorem ksHidden_writeBackChecked (rd : Reg) (v : Option Word) :
    KsHidden (writeBackChecked rd v s) (writeBackChecked rd v { s with ks := k }) := by
  cases v with
  | some v => exact .of_unset rfl rfl hv
  | none => exact .of_unset rfl rfl hv

/-- The key check answers NOKEY before anything of KS is read (R26). -/
theorem ksHidden_withKey (r r' : Result) : KsHidden (withKey s r) (withKey { s with ks := k } r') := by
  rw [withKey_unset hv, withKey_unset (s := { s with ks := k }) hv]
  exact .of_unset rfl rfl hv

theorem ksHidden_withDistinct (ra rb : Reg) {r r' : Result} (h : KsHidden r r') :
    KsHidden (withDistinct ra rb s r) (withDistinct ra rb { s with ks := k } r') := by
  by_cases hr : ra = rb
  · rw [withDistinct_eq hr, withDistinct_eq hr]
    exact .of_unset rfl rfl hv
  · rwa [withDistinct_ne hr, withDistinct_ne hr]

/-- A command reads KS only after the key check, and KEYSET replaces all of it. -/
theorem ksHidden_exec (i : Instr) : KsHidden (exec i s) (exec i { s with ks := k }) := by
  cases i with
  | nop => exact .of_unset rfl rfl hv
  | gfmul rd => exact ksHidden_writeBackChecked hv k rd _
  | gfpow7 rd => exact ksHidden_writeBackChecked hv k rd _
  | perm32 => exact .of_unset rfl rfl hv
  | sbox rd => exact ksHidden_writeBackChecked hv k rd _
  | roundf rd => exact ksHidden_writeBackChecked hv k rd _
  | roundk => exact ksHidden_withKey hv k _ _
  | xor => exact .of_unset rfl rfl hv
  | keyset => exact .refl _
  | ksrd => exact ksHidden_withKey hv k _ _
  | enc ra rb => exact ksHidden_withDistinct hv k ra rb (ksHidden_withKey hv k _ _)
  | dec ra rb => exact ksHidden_withDistinct hv k ra rb (ksHidden_withKey hv k _ _)

theorem ksHidden_runWord (w : Word) : KsHidden (runWord w s) (runWord w { s with ks := k }) := by
  unfold runWord
  cases decode w with
  | ok i => exact ksHidden_exec hv k i
  | error => exact .of_unset rfl rfl hv

theorem ksHidden_engineStep : KsHidden (engineStep s) (engineStep { s with ks := k }) := by
  unfold engineStep
  cases hp : s.pend with
  | empty => exact .of_unset rfl (by rw [hp]) hv
  | build => exact .of_unset rfl rfl hv
  | command w => exact ksHidden_runWord hv k w

end

theorem memRead_withKs (s : State) (k : Schedule) (slot : Slot) : memRead { s with ks := k } slot = memRead s slot := by
  cases slot <;> rfl

theorem memWrite_withKs (s : State) (k : Schedule) (v : Word) (slot : Slot) :
    memWrite { s with ks := k } v slot = (memWrite s v slot).map fun t => { t with ks := k } := by
  cases slot <;> rfl

/-- No access reads or writes KS (R32). -/
theorem respond_withKs (a : Access) (s : State) (k : Schedule) :
    respond a { s with ks := k } = ({ (respond a s).1 with ks := k }, (respond a s).2) := by
  unfold respond
  rw [memRead_withKs, memWrite_withKs]
  split
  · rfl
  · split
    · cases memWrite s a.wdata (slotAt a.addr) <;> rfl
    · cases memRead s (slotAt a.addr) <;> rfl

theorem serve_withKs (s : State) (k : Schedule) (a : Access) (rest : List HostMove) :
    State.serve { s with ks := k } a rest = { s.serve a rest with ks := k } := by
  simp only [State.serve, respond_withKs]

/-- No access changes KEYVALID (R26). -/
theorem respond_keyValid (a : Access) (s : State) : (respond a s).1.keyValid = s.keyValid := by
  rcases respond_cases a s with hr | ⟨v, -, -, -, hr⟩ | ⟨s', -, -, hm, hr⟩
  · rw [hr]
  · rw [hr]
  · rw [hr]
    rcases memWrite_cases hm with ⟨-, rfl⟩ | ⟨r, -, rfl⟩ <;> rfl

/-- Whose turn it is does not depend on KS. -/
theorem turn_withKs (s : State) (k : Schedule) : State.turn { s with ks := k } = s.turn := rfl

/-- Settles O38: by whose turn it is, which is the same in both states. -/
theorem unsetKeyScheduleIsUnobservable : Obligations.UnsetKeyScheduleIsUnobservable := by
  intro s k hv
  show KsHidden (takeTurn s) (takeTurn { s with ks := k })
  unfold takeTurn
  rw [turn_withKs s k]
  cases s.turn with
  | reset rest => exact .refl _
  | access a rest =>
    exact .of_unset rfl (congrArg _ (serve_withKs s k a rest)) ((respond_keyValid a s).trans hv)
  | engine => exact ksHidden_engineStep hv k
  | idle => exact .of_unset rfl rfl hv

/-! ### STATUS -/

/-- The bits of a concatenation by arithmetic. -/
theorem toNat_append_eq_add {n m : Nat} (v : BitVec n) (w : BitVec m) : (v ++ w).toNat = v.toNat * 2 ^ m + w.toNat := by
  rw [BitVec.toNat_append, ← Nat.shiftLeft_add_eq_or_of_lt w.isLt, Nat.shiftLeft_eq]

/-- A bit by arithmetic (R8). -/
theorem getLsbD_eq_iff {w : Word} {i : Nat} {b : Bool} : w.getLsbD i = b ↔ w.toNat / 2 ^ i % 2 = b.toNat := by
  rw [BitVec.getLsbD, Nat.testBit_eq_decide_div_mod_eq]
  cases b <;> simp

/-- The STATUS word by arithmetic (R24). -/
theorem State.status_toNat (s : State) :
    s.status.toNat = 256 * s.err.toNat + 4 * s.eflag.toNat + 2 * s.keyValid.toNat + s.busy.toNat := by
  unfold State.status
  show BitVec.toNat (w := 20 + 4 + 5 + 1 + 1 + 1) _ = _
  simp only [toNat_append_eq_add, BitVec.toNat_ofBool, BitVec.toNat_ofNat]
  omega

/-- Settles O39: each field is cut out of the arithmetic form of STATUS, whose parts do not overlap. -/
theorem statusLayout : Obligations.StatusLayout := by
  intro s
  have herr : s.err.toNat < 16 := s.err.isLt
  have hflag := s.eflag.toNat_lt
  have hkey := s.keyValid.toNat_lt
  have hbusy := s.busy.toNat_lt
  simp only [getLsbD_eq_iff, bitsAt, s.status_toNat]
  exact ⟨by omega, s.busy_eq_true_iff, by omega, by omega, by omega, by omega, by omega⟩

end Sys2Proof.Machine
end

section
/-! The register window and the hold (spec/20_memory.md): what each access answers and leaves, which accesses BUSY = 1 holds, and
why a host's STATUS reads change no result. -/

namespace Sys2Proof.Machine

/-! ### The slots of the window -/

theorem slotAt_data {addr : BitVec 4} {n : Reg} (h : addr.toNat = n.val + 4) : slotAt addr = .data n := by
  have hslot : ∀ (b : BitVec 4) (r : Reg), b.toNat = r.val + 4 → slotAt b = .data r := by decide
  exact hslot addr n h

theorem slotAt_reserved {addr : BitVec 4} (h : 12 ≤ addr.toNat) : slotAt addr = .reserved := by
  have hslot : ∀ b : BitVec 4, 12 ≤ b.toNat → slotAt b = .reserved := by decide
  exact hslot addr h

theorem slotAt_ne_reserved {addr : BitVec 4} (h : addr.toNat < 12) : slotAt addr ≠ .reserved := by
  have hslot : ∀ b : BitVec 4, b.toNat < 12 → slotAt b ≠ .reserved := by decide
  exact hslot addr h

/-- ID, BLKSIZE and STATUS are read-only (R55). -/
theorem memWrite_readOnly (s : State) (v : Word) {addr : BitVec 4} (h : addr.toNat < 3) : memWrite s v (slotAt addr) = none := by
  have hslot : ∀ b : BitVec 4, b.toNat < 3 → slotAt b = .id ∨ slotAt b = .blksize ∨ slotAt b = .status := by decide
  rcases hslot addr h with hs | hs | hs <;> rw [hs] <;> rfl

/-- Every slot but a reserved one can be read (R54). -/
theorem exists_memRead (s : State) {slot : Slot} (h : slot ≠ .reserved) : ∃ v, memRead s slot = some v := by
  cases slot with
  | id => exact ⟨_, rfl⟩
  | blksize => exact ⟨_, rfl⟩
  | status => exact ⟨_, rfl⟩
  | cmd => exact ⟨_, rfl⟩
  | data r => exact ⟨_, rfl⟩
  | reserved => exact absurd rfl h

/-! ### What an access is answered, and what it leaves -/

section
variable {s : State} {a : Access}

theorem respond_read {v : Word} (hbe : a.be = 0b1111#4) (hwe : a.we = false) (hm : memRead s (slotAt a.addr) = some v) :
    respond a s = (s, { err := false, rdata := some v }) := by
  simp [respond, hbe, hwe, hm]

theorem respond_write {s' : State} (hbe : a.be = 0b1111#4) (hwe : a.we = true)
    (hm : memWrite s a.wdata (slotAt a.addr) = some s') : respond a s = (s', { err := false, rdata := none }) := by
  simp [respond, hbe, hwe, hm]

theorem respond_partial (hbe : a.be ≠ 0b1111#4) : respond a s = (s, errorAnswer a) := if_pos hbe

/-- The three causes of R55. -/
theorem respond_refused (h : a.be ≠ 0b1111#4 ∨ 12 ≤ a.addr.toNat ∨ (a.we = true ∧ a.addr.toNat < 3)) :
    respond a s = (s, errorAnswer a) := by
  rcases h with hbe | haddr | ⟨hwe, haddr⟩
  · exact respond_partial hbe
  · simp [respond, slotAt_reserved haddr, memRead, memWrite]
  · simp [respond, hwe, memWrite_readOnly s _ haddr]

/-- A read of STATUS writes nothing. -/
theorem respond_statusRead_fst (s : State) (h : a.isStatusRead = true) : (respond a s).1 = s := by
  obtain ⟨hwe, -⟩ := a.isStatusRead_iff.mp h
  rcases respond_cases a s with hr | ⟨v, -, -, -, hr⟩ | ⟨s', -, hwe', -⟩
  · rw [hr]
  · rw [hr]
  · simp [hwe] at hwe'

/-- The state after an access, from what the block answers to it. -/
theorem serve_of_respond {s' : State} {answer : Answer} (h : respond a s = (s', answer)) (rest : List HostMove) :
    s.serve a rest = { s' with port := { s.port.moved rest with answers := answer :: s.port.answers } } := by
  rw [State.serve, h]

/-- The step that serves an access, from what the block answers to it. -/
theorem step_of_respond {s' : State} {answer : Answer} {rest : List HostMove} (htodo : s.port.todo = .access a :: rest)
    (hbusy : s.busy = false) (h : respond a s = (s', answer)) :
    step s = .next { s' with port := { s.port.moved rest with answers := answer :: s.port.answers } } := by
  rw [step_eq_serve htodo hbusy, serve_of_respond h]

/-- What BUSY = 1 holds is every access but a STATUS read (R62). -/
theorem isStatusRead_eq_false (h : a.we = true ∨ a.addr ≠ 2) : a.isStatusRead = false := by
  rw [← Bool.not_eq_true, a.isStatusRead_iff]
  rintro ⟨hwe, haddr⟩
  exact h.elim (by simp [hwe]) (absurd haddr)

/-- An access that the host presents is performed, or the engine's step comes before it. -/
theorem step_eq_serve_or_engineStep {rest : List HostMove} (h : s.port.todo = .access a :: rest) :
    step s = .next (s.serve a rest) ∨ step s = engineStep s := by
  rcases step_cases s with ⟨p, rest', htodo, -⟩ | ⟨a', rest', htodo, -, hs⟩ | ⟨-, -, hs⟩ | ⟨-, htodo, -⟩
  · cases h.symm.trans htodo
  · cases h.symm.trans htodo
    exact .inl hs
  · exact .inr hs
  · cases h.symm.trans htodo

end

/-! ### The engine's step -/

theorem engineStep_of_decode {s : State} {w : Word} {i : Instr} (hp : s.pend = .command w) (hd : decode w = .ok i) :
    engineStep s = exec i s := by
  simp [engineStep, hp, runWord, hd]

/-- Settles O7: in both ways of being held the turn is the engine's, and its step runs the word in PEND. -/
theorem stepRunsDecodedCommand : Obligations.StepRunsDecodedCommand := by
  intro s ⟨hbusy, hmove⟩
  have hstep : step s = engineStep s := by
    rcases hmove with htodo | ⟨a, rest, htodo, hheld⟩
    · exact step_eq_engineStep_of_nil htodo hbusy
    · exact step_eq_engineStep_of_held htodo hbusy (isStatusRead_eq_false hheld)
  exact ⟨hstep, fun w i hp hd => hstep.trans (engineStep_of_decode hp hd)⟩

/-- The engine's step empties PEND and leaves the host's side of the port. -/
theorem engineStep_drains (s : State) : ∃ t, engineStep s = .next t ∧ t.pend = .empty ∧ t.port = s.port := by
  rcases engineStep_cases s with ⟨hp, he⟩ | ⟨-, he⟩ | ⟨w, i, t, -, -, -, he, hend⟩ | ⟨w, e, -, -, he⟩
  · exact ⟨s, he, hp, rfl⟩
  · exact ⟨_, he, rfl, rfl⟩
  · obtain ⟨c, -, -, hpend, -, hport⟩ := hend.completed
    exact ⟨t, he, hpend, hport⟩
  · exact ⟨_, he, rfl, rfl⟩

/-! ### The obligations about single accesses -/

/-- Settles O40: an access of a block that is not busy is served, and what it does is read off the slot it selects. -/
theorem busReadsAndWrites : Obligations.BusReadsAndWrites := by
  refine ⟨fun s a rest hbusy htodo hwe hbe haddr => ?_,
    fun s a rest hbusy htodo hwe hbe => ⟨fun haddr => ?_, fun n haddr => ?_⟩⟩
  · obtain ⟨v, hv⟩ := exists_memRead s (slotAt_ne_reserved haddr)
    have hv_eq {slot : Slot} {u : Word} (hslot : slotAt a.addr = slot) (hu : memRead s slot = some u) : v = u :=
      Option.some.inj (hv.symm.trans (hslot ▸ hu))
    exact ⟨_, v, step_of_respond htodo hbusy (respond_read hbe hwe hv), rfl, rfl, rfl,
      fun h => hv_eq (congrArg slotAt h) rfl, fun h => hv_eq (congrArg slotAt h) rfl, fun h => hv_eq (congrArg slotAt h) rfl,
      fun h => hv_eq (congrArg slotAt h) rfl, fun n h => hv_eq (slotAt_data h) rfl⟩
  · have hm : memWrite s a.wdata (slotAt a.addr) = some (s.issue a.wdata) := by rw [haddr]; rfl
    exact ⟨_, _, step_of_respond htodo hbusy (respond_write hbe hwe hm), rfl, rfl, rfl, rfl, rfl⟩
  · have hm : memWrite s a.wdata (slotAt a.addr) = some (s.writeReg n a.wdata) := by rw [slotAt_data haddr]; rfl
    exact ⟨_, _, step_of_respond htodo hbusy (respond_write hbe hwe hm),
      s.writeReg_same n a.wdata, fun r hr => s.writeReg_other a.wdata (by simpa using hr), rfl, rfl, rfl, rfl⟩

/-- Settles O41: a refused access is served with the ERROR answer, and a held one waits for the engine. -/
theorem busErrors : Obligations.BusErrors := by
  refine ⟨fun s a rest hbusy htodo hcause => ?_, fun s a rest hbusy htodo hheld =>
    step_eq_engineStep_of_held htodo hbusy (isStatusRead_eq_false hheld)⟩
  refine ⟨_, errorAnswer a, step_of_respond htodo hbusy (respond_refused hcause), rfl, rfl, rfl, rfl, rfl, fun hwe => ?_⟩
  simp [errorAnswer, hwe]

/-- Settles O42: the engine's step empties PEND; a STATUS read is served with BUSY still 1, or that step comes first. -/
theorem busyHoldsAccesses : Obligations.BusyHoldsAccesses := by
  intro s a rest hbusy htodo
  refine ⟨?_, fun hheld => step_eq_engineStep_of_held htodo hbusy (isStatusRead_eq_false hheld),
    fun hwe haddr hbe => ?_, fun hwe haddr hbe => ?_⟩
  · obtain ⟨t, he, hpend, hport⟩ := engineStep_drains s
    exact ⟨t, he, hport, t.busy_eq_false_iff.mpr hpend⟩
  · have hread : memRead s (slotAt a.addr) = some s.status := by rw [haddr]; rfl
    have hshown : s.status.getLsbD 0 = true := (statusLayout s).1.trans hbusy
    refine (step_eq_serve_or_engineStep htodo).imp_left fun hs => ?_
    rw [serve_of_respond (respond_read hbe hwe hread)] at hs
    exact ⟨_, s.status, hs, rfl, rfl, hshown, rfl, rfl⟩
  · refine (step_eq_serve_or_engineStep htodo).imp_left fun hs => ?_
    rw [serve_of_respond (respond_partial hbe), errorAnswer, hwe] at hs
    exact ⟨_, hs, rfl, rfl, rfl⟩

/-! ### Polling

The block at the end of a run is a function of the block now and of the host's moves to come (`State.settled`): between two moves
the engine drains PEND or has drained it already, and a reset does not ask which. No step changes that function's value, and
STATUS reads do not enter into it. -/

/-- The state after the engine's step: PEND drained. -/
def State.drained (s : State) : State :=
  match engineStep s with
  | .next t => t
  | .fault _ => s
  | .refused _ => s

theorem engineStep_eq_drained (s : State) : engineStep s = .next s.drained := by
  obtain ⟨t, he, -⟩ := engineStep_drains s
  simp [State.drained, he]

theorem drained_port (s : State) : s.drained.port = s.port := by
  obtain ⟨t, he, -, hport⟩ := engineStep_drains s
  simpa [State.drained, he] using hport

theorem drained_pend (s : State) : s.drained.pend = .empty := by
  obtain ⟨t, he, hpend, -⟩ := engineStep_drains s
  simpa [State.drained, he] using hpend

theorem drained_of_pend_empty {s : State} (h : s.pend = .empty) : s.drained = s := by
  simp [State.drained, engineStep, h]

@[simp] theorem drained_drained (s : State) : s.drained.drained = s.drained := drained_of_pend_empty (drained_pend s)

/-- The block alone: the state with the host's side of the port as it is at reset. -/
def State.block (s : State) : State := { s with port := State.reset.port }

theorem blockKept_iff {s t : State} : BlockKept s t ↔ t.block = s.block := by
  constructor
  · intro h
    exact (congrArg State.block h :)
  · intro h
    exact congrArg (fun b : State => { b with port := s.port }) h

/-- The engine does not see the host's side of the port. -/
theorem block_drained (s : State) : s.drained.block = s.block.drained := by
  have h := engineStep_withPort s State.reset.port
  rw [engineStep_eq_drained s] at h
  exact (Host.Outcome.next.inj ((engineStep_eq_drained s.block).symm.trans h)).symm

/-- What an access does to the block does not depend on the host's side of the port. -/
theorem block_respond (a : Access) (s : State) : (respond a s).1.block = (respond a s.block).1 := by
  unfold respond
  split
  · rfl
  · split
    · cases slotAt a.addr <;> rfl
    · cases slotAt a.addr <;> rfl

/-- What a move leaves of a block that drains PEND before it serves an access. -/
def State.afterMove (s : State) : HostMove → State
  | .reset _ => State.reset
  | .access a => (respond a s.drained).1

/-- The block after these moves, PEND drained. -/
def State.outcome (s : State) : List HostMove → State
  | [] => s.drained
  | move :: rest => (s.afterMove move).outcome rest

/-- The block at the end of the run from a state. -/
def State.settled (s : State) : State := s.block.outcome s.port.todo

/-- The engine may run before the next move or not. -/
theorem outcome_drained (s : State) (todo : List HostMove) : s.drained.outcome todo = s.outcome todo := by
  cases todo with
  | nil => exact drained_drained s
  | cons move rest =>
    cases move with
    | reset => rfl
    | access a => simp only [State.outcome, State.afterMove, drained_drained]

theorem outcome_statusRead (s : State) {a : Access} (h : a.isStatusRead = true) (rest : List HostMove) :
    s.outcome (.access a :: rest) = s.outcome rest := by
  rw [State.outcome, State.afterMove, respond_statusRead_fst _ h, outcome_drained]

/-- The host's STATUS reads do not enter into the outcome. -/
theorem outcome_filter_polls (s : State) (todo : List HostMove) :
    s.outcome (todo.filter fun move => !move.isPoll) = s.outcome todo := by
  induction todo generalizing s with
  | nil => rfl
  | cons move rest ih =>
    cases hpoll : move.isPoll with
    | false =>
      rw [List.filter_cons_of_pos (by simp [hpoll])]
      exact ih _
    | true =>
      rw [List.filter_cons_of_neg (by simp [hpoll]), ih]
      cases move with
      | reset => cases hpoll
      | access a => exact (outcome_statusRead s hpoll rest).symm

/-- Serving an access is the next move of the outcome, for a block that is not busy or a STATUS read. -/
theorem outcome_block_serve {s : State} {a : Access} (rest : List HostMove) (h : s.busy = false ∨ a.isStatusRead = true) :
    (s.serve a rest).block.outcome rest = s.block.outcome (.access a :: rest) := by
  have hblock : (s.serve a rest).block = (respond a s.block).1 := block_respond a s
  rw [hblock]
  rcases h with hb | hread
  · have hidle : s.block.drained = s.block := drained_of_pend_empty (s.busy_eq_false_iff.mp hb)
    rw [State.outcome, State.afterMove, hidle]
  · rw [respond_statusRead_fst _ hread, outcome_statusRead _ hread]

/-- No step changes where the run ends. -/
theorem settled_step {s t : State} (h : step s = .next t) : t.settled = s.settled := by
  unfold State.settled
  rcases step_cases s with ⟨p, rest, htodo, hs⟩ | ⟨a, rest, htodo, hfree, hs⟩ | ⟨-, -, hs⟩ | ⟨-, -, hs⟩
  · cases hs.symm.trans h
    rw [htodo]
    rfl
  · cases hs.symm.trans h
    rw [htodo]
    exact outcome_block_serve rest hfree
  · cases (hs.trans (engineStep_eq_drained s)).symm.trans h
    rw [block_drained, outcome_drained, drained_port]
  · cases hs.symm.trans h
    rfl

/-- A run of `k + 1` steps that goes through is a step and a run of `k`. -/
theorem step_of_run_succ {M : Host.Core} {k : Nat} {s t : M.State} (h : M.run (k + 1) s = .next t) :
    ∃ u, M.step s = .next u ∧ M.run k u = .next t := by
  rw [Host.Core.run] at h
  split at h
  · next u hu => exact ⟨u, hu, h⟩
  · cases h
  · cases h

theorem settled_run {k : Nat} {s t : State} (h : Host.Core.run core k s = .next t) : t.settled = s.settled := by
  induction k generalizing s with
  | zero => cases h; rfl
  | succ k ih =>
    obtain ⟨u, hstep, hrun⟩ := step_of_run_succ h
    exact (ih hrun).trans (settled_step hstep)

/-- A run that is over has reached its outcome. -/
theorem settled_of_quiet {t : State} (h : Quiet t) : t.settled = t.block := by
  obtain ⟨htodo, hbusy⟩ := h
  rw [State.settled, htodo]
  exact drained_of_pend_empty (t.busy_eq_false_iff.mp hbusy)

/-- Settles O50: both runs end in the outcome of the same block under the same moves that are not STATUS reads. -/
theorem pollingChangesNoResult : Obligations.PollingChangesNoResult := by
  intro s s' t t' k k' hblock htodo hrun hquiet hrun' hquiet'
  refine blockKept_iff.mpr ?_
  calc t'.block = s'.settled := (settled_of_quiet hquiet').symm.trans (settled_run hrun')
    _ = s.block.outcome (s.port.todo.filter fun move => !move.isPoll) := by
      rw [State.settled, blockKept_iff.mp hblock, htodo]
    _ = s.settled := outcome_filter_polls s.block s.port.todo
    _ = t.block := (settled_run hrun).symm.trans (settled_of_quiet hquiet)

end Sys2Proof.Machine
end

section
/-! The encoding (spec/30_encoding.md): the decoder and the encoder invert each other, and every other word ends with ILLEGAL. -/

namespace Sys2Proof.Machine

/-! ### Fields, placed and read back -/

/-- The bits of a placed value. -/
theorem placed_getLsbD (v lo i : Nat) : (placed v lo).getLsbD i = (decide (i < 32) && (v * 2 ^ lo).testBit i) := by
  have h : placed v lo = BitVec.ofNat 32 (v * 2 ^ lo) := by
    apply BitVec.eq_of_toNat_eq
    simp [placed, Nat.shiftLeft_eq]
  rw [h, BitVec.getLsbD_ofNat]

/-- A placed value read back from its own field. -/
@[simp] theorem extract_placed_same {v lo len : Nat} (h : lo + len ≤ 32) : (placed v lo).extractLsb' lo len = BitVec.ofNat len v := by
  apply BitVec.eq_of_getLsbD_eq
  intro i hi
  have hin : lo + i < 32 := by omega
  simp only [BitVec.getLsbD_extractLsb', placed_getLsbD, BitVec.getLsbD_ofNat, Nat.testBit_mul_two_pow, hin]
  simp

/-- A value below `n`, placed, does not reach a field above its last bit or below its lowest one. -/
@[simp] theorem extract_placed_other {n lo lo' len : Nat} (v : Fin n) (h : n * 2 ^ lo ≤ 2 ^ lo' ∨ lo' + len ≤ lo) :
    (placed v lo).extractLsb' lo' len = 0 := by
  apply BitVec.eq_of_getLsbD_eq
  intro i hi
  have hbit : (v.val * 2 ^ lo).testBit (lo' + i) = false := by
    rcases h with habove | hbelow
    · refine Nat.testBit_lt_two_pow ?_
      calc v.val * 2 ^ lo < n * 2 ^ lo := Nat.mul_lt_mul_of_pos_right v.isLt (Nat.two_pow_pos lo)
        _ ≤ 2 ^ lo' := habove
        _ ≤ 2 ^ (lo' + i) := Nat.pow_le_pow_right (by decide) (Nat.le_add_right lo' i)
    · simp [Nat.testBit_mul_two_pow, show ¬lo ≤ lo' + i by omega]
  simp [placed_getLsbD, hbit]

/-- Reading a field and placing it back keeps the word's bits in the field, and no others. -/
theorem placed_extract (w : Word) (lo len : Nat) :
    placed (w.extractLsb' lo len).toNat lo = w &&& (BitVec.allOnes len).setWidth 32 <<< lo := by
  apply BitVec.eq_of_getLsbD_eq
  intro i hi
  rw [placed_getLsbD]
  by_cases hlo : lo ≤ i
  · simp [hi, hlo, Nat.testBit_mul_two_pow, BitVec.testBit_toNat, Bool.and_comm, show ¬i < lo by omega]
  · simp [hlo, Nat.testBit_mul_two_pow]

/-! Each field of R81 as the bits it keeps. -/

theorem placed_rdField (w : Word) : placed (rdField w) 0 = w &&& 0x00000007 := placed_extract w 0 3
theorem placed_raField (w : Word) : placed (raField w) 3 = w &&& 0x00000038 := placed_extract w 3 3
theorem placed_rbField (w : Word) : placed (rbField w) 6 = w &&& 0x000001C0 := placed_extract w 6 3
theorem placed_rcField (w : Word) : placed (rcField w) 9 = w &&& 0x00000E00 := placed_extract w 9 3
theorem placed_reField (w : Word) : placed (reField w) 12 = w &&& 0x00007000 := placed_extract w 12 3
theorem placed_selField (w : Word) : placed (selField w) 18 = w &&& 0x000C0000 := placed_extract w 18 2
theorem placed_rndField (w : Word) : placed (rndField w) 20 = w &&& 0x00F00000 := placed_extract w 20 4

/-! ### The rows of R84's table -/

/-- R88: no two rows share an OP, so a row of the table is the row of every word with its OP. -/
theorem rowOf_of_mem {w : Word} {row : Row} (hmem : row ∈ opcodeTable) (hop : opField w = row.op) : rowOf w = some row := by
  have hsome : (rowOf w).isSome := List.find?_isSome.mpr ⟨row, hmem, by simp [hop]⟩
  obtain ⟨found, hfound⟩ := Option.isSome_iff_exists.mp hsome
  have hfop : found.op = row.op := by simpa [hop] using List.find?_some hfound
  rw [hfound, List.inj_on_of_nodup_map opcodeTable_ops_distinct (List.mem_of_find?_eq_some hfound) hmem hfop]

/-- Every row's mask holds all of OP, and no match value has a bit outside OP. -/
theorem opcodeTable_masks : ∀ row ∈ opcodeTable, opField row.mask = 0xFF ∧ row.pattern &&& 0x00FFFFFF = 0 := by
  simp only [opcodeTable, List.forall_mem_cons, List.not_mem_nil, false_imp_iff, implies_true, and_true]
  decide

/-- R88: a word decodes to the command that the row whose mask test it passes gives it. -/
theorem decode_ok_iff_row {w : Word} {i : Instr} :
    decode w = .ok i ↔ ∃ row ∈ opcodeTable, w &&& row.mask = row.pattern ∧ row.operands w = .ok i := by
  constructor
  · intro h
    cases hrow : rowOf w with
    | none => simp [decode, hrow] at h
    | some row =>
      by_cases hm : w &&& row.mask = row.pattern
      · exact ⟨row, List.mem_of_find?_eq_some hrow, hm, by simpa [decode, hrow, hm] using h⟩
      · simp [decode_of_unmasked hm hrow] at h
  · rintro ⟨row, hmem, hm, hi⟩
    have hpat := rowOf_of_mem hmem (opcodeTable_patterns row hmem).2
    rw [decode_of_masked hm hpat (opcodeTable_masks row hmem).1, hi]

/-! ### Decoding an encoded command -/

/-- OP of a command (R84). -/
def opOf : Instr → Byte
  | .nop => 0x00
  | .gfmul _ _ _ _ => 0x01
  | .gfpow7 _ _ _ => 0x02
  | .perm32 _ _ => 0x03
  | .sbox _ _ _ => 0x04
  | .roundf _ _ _ _ _ => 0x05
  | .roundk _ _ _ => 0x06
  | .xor _ _ _ => 0x07
  | .keyset _ _ => 0x10
  | .ksrd _ _ _ => 0x11
  | .enc _ _ => 0x20
  | .dec _ _ => 0x21

/-- A command's operands are placed outside OP. -/
theorem opField_encode (i : Instr) : opField (encode i) = opOf i := by
  cases i <;> simp [encode, opOf, opField, BitVec.extractLsb'_or]

/-- The word of every command is in its row (R84). -/
theorem rowMatch (i : Instr) : Laws.RowMatch.Statement i := by
  cases i with
  | nop => exact Laws.RowMatch.nop
  | gfmul rd ra rb rc => exact Laws.RowMatch.gfmul rd ra rb rc
  | gfpow7 rd ra rb => exact Laws.RowMatch.gfpow7 rd ra rb
  | perm32 rd ra => exact Laws.RowMatch.perm32 rd ra
  | sbox rd ra t => exact Laws.RowMatch.sbox rd ra t
  | roundf rd ra rb rc re => exact Laws.RowMatch.roundf rd ra rb rc re
  | roundk rd ra r => exact Laws.RowMatch.roundk rd ra r
  | xor rd ra rb => exact Laws.RowMatch.xor rd ra rb
  | keyset ra rb => exact Laws.RowMatch.keyset ra rb
  | ksrd rd r j => exact Laws.RowMatch.ksrd rd r j
  | enc ra rb => exact Laws.RowMatch.enc ra rb
  | dec ra rb => exact Laws.RowMatch.dec ra rb

/-- A command's word decodes to what the row of the command's OP reads from it. -/
theorem decode_encode_eq_operands (i : Instr) :
    ∃ row, (opcodeTable.find? fun row => row.op == opOf i) = some row ∧ decode (encode i) = row.operands (encode i) := by
  obtain ⟨row, hrow, hmask⟩ := rowMatch i
  exact ⟨row, (rowOf_of_opField (opField_encode i)).symm.trans hrow, by simp only [decode, hrow, if_pos hmask]⟩

/-! ### KSRD's SEL, and the two registers of ENC and DEC (R87) -/

/-- KSRD's fields name a command exactly where SEL is a subkey's number. -/
theorem ksrdOperands_ok_iff {w : Word} {i : Instr} :
    ksrdOperands w = .ok i ↔ ∃ j : Fin 3, (selField w).val = j.val ∧ i = .ksrd (rdField w) (rndField w) j := by
  by_cases hsel : (selField w).val < 3
  · simp only [ksrdOperands, subkeyField, dif_pos hsel, Except.ok.injEq]
    exact ⟨fun h => ⟨⟨_, hsel⟩, rfl, h.symm⟩, fun ⟨_, hj, hi⟩ => hi ▸ congrArg _ (Fin.ext hj)⟩
  · simp only [ksrdOperands, subkeyField, dif_neg hsel]
    exact ⟨nofun, fun ⟨j, hj, _⟩ => absurd (hj ▸ j.isLt) hsel⟩

/-- ENC's and DEC's fields name a command exactly where RA and RB differ. -/
theorem blockOperands_ok_iff {build : Reg → Reg → Instr} {w : Word} {i : Instr} :
    blockOperands build w = .ok i ↔ raField w ≠ rbField w ∧ i = build (raField w) (rbField w) := by
  by_cases hreg : raField w = rbField w
  · simp [blockOperands, hreg]
  · simp [blockOperands, hreg, eq_comm]

/-- Settles O1: the command's row reads every field back as it was placed. -/
theorem decodeOfEncode : Obligations.DecodeOfEncode := by
  intro i hwf
  obtain ⟨row, hrow, hdecode⟩ := decode_encode_eq_operands i
  rw [hdecode]
  cases i with
  | ksrd rd r j =>
    cases hrow
    refine ksrdOperands_ok_iff.mpr ⟨j, ?_, ?_⟩
    · simp [encode, selField, BitVec.extractLsb'_or]
    · simp [encode, rdField, rndField, regField, BitVec.extractLsb'_or]
  | enc ra rb | dec ra rb =>
    cases hrow
    simpa [encode, blockOperands, raField, rbField, regField, BitVec.extractLsb'_or] using of_decide_eq_true hwf
  | _ =>
    cases hrow
    simp [encode, rdField, raField, rbField, rcField, reField, selField, rndField, regField, BitVec.extractLsb'_or]

/-! ### Encoding a decoded word -/

/-- Encoding what the row reads from a word that passes its mask test gives back the word. -/
def RowInverts (row : Row) : Prop :=
  ∀ (w : Word) (i : Instr), w &&& row.mask = row.pattern → row.operands w = .ok i → i.WellFormed ∧ encode i = w

/-- Every row's mask and its fields together cover the 32 bits of a word. -/
theorem opcodeTable_inverts : ∀ row ∈ opcodeTable, RowInverts row := by
  simp only [opcodeTable, List.forall_mem_cons, List.not_mem_nil, false_imp_iff, implies_true, and_true]
  refine ⟨?nop, ?gfmul, ?gfpow7, ?perm32, ?sbox, ?roundf, ?roundk, ?xor, ?keyset, ?ksrd, ?enc, ?dec⟩ <;>
    intro w i hmask hi <;> simp only at hmask hi
  case ksrd =>
    obtain ⟨j, hsel, rfl⟩ := ksrdOperands_ok_iff.mp hi
    refine ⟨rfl, ?_⟩
    simp only [encode, placed_rdField, placed_rndField, ← hsel, placed_selField, ← hmask, ← BitVec.and_or_distrib_left]
    exact BitVec.and_allOnes
  case enc | dec =>
    obtain ⟨hne, rfl⟩ := blockOperands_ok_iff.mp hi
    refine ⟨decide_eq_true hne, ?_⟩
    simp only [encode, placed_raField, placed_rbField, ← hmask, ← BitVec.and_or_distrib_left]
    exact BitVec.and_allOnes
  all_goals
    cases hi
    refine ⟨rfl, ?_⟩
    simp only [encode, placed_rdField, placed_raField, placed_rbField, placed_rcField, placed_reField, placed_selField,
      placed_rndField, ← hmask, ← BitVec.and_or_distrib_left]
    exact BitVec.and_allOnes

/-- Settles O2: the word passed the mask test of its row, whose fields are then read and placed back. -/
theorem encodeOfDecode : Obligations.EncodeOfDecode := by
  intro w i h
  obtain ⟨row, hmem, hmask, hi⟩ := decode_ok_iff_row.mp h
  exact opcodeTable_inverts row hmem w i hmask hi

/-- The words that decode are the words of the well-formed commands, each to its command. -/
theorem decode_ok_iff {w : Word} {i : Instr} : decode w = .ok i ↔ i.WellFormed ∧ encode i = w :=
  ⟨encodeOfDecode w i, fun ⟨hwf, hw⟩ => hw ▸ decodeOfEncode i hwf⟩

/-- Settles O3: each word is the encoding of its command. -/
theorem writtenWordsDecode : Obligations.WrittenWordsDecode := by
  simp only [Obligations.WrittenWordsDecode, decode_ok_iff]
  decide

/-! ### Words that end with ILLEGAL -/

/-- R263: a word that the decoder refuses ends with ILLEGAL, with the completion update and nothing else. -/
theorem endsWith_illegal_of_decode {s : State} {w : Word} {e : DecodeError} (hp : s.pend = .command w)
    (hd : decode w = .error e) : EndsWith 1 (engineStep s) s :=
  ⟨s.finish .illegal, by simp [engineStep, hp, runWord, hd, raiseError_eq], rfl, ⟨rfl, rfl⟩, completed_finish s .illegal⟩

/-- The opcodes and masks that the statements speak of are those of the decoder's table. -/
theorem maskTable_eq : maskTable = opcodeTable.map fun row => (row.op.toNat, row.mask) := rfl

/-- OP by arithmetic and as a field. -/
theorem bitsAt_op_eq_iff {w : Word} {op : Byte} : bitsAt w 24 8 = op.toNat ↔ opField w = op := by
  rw [← BitVec.toNat_inj, opField_toNat, bitsAt]

/-- R86: an undefined OP has no row. -/
theorem decode_of_undefinedOp {w : Word} (h : UndefinedOp w) : decode w = .error .undefinedOpcode := by
  have hnone : rowOf w = none := by
    rw [rowOf, List.find?_eq_none]
    intro row hmem hop
    have hne : bitsAt w 24 8 ≠ row.op.toNat := h _ (maskTable_eq ▸ List.mem_map_of_mem hmem)
    exact hne (bitsAt_op_eq_iff.mpr (eq_of_beq hop).symm)
  simp only [decode, hnone]

/-- R85: a word with a set bit under its row's mask outside OP is not its row's match value there. -/
theorem decode_of_nonzeroUnused {w : Word} (h : NonzeroUnused w) : decode w = .error .nonzeroUnused := by
  obtain ⟨entry, hentry, hop, hbit⟩ := h
  obtain ⟨row, hmem, rfl⟩ := List.mem_map.mp (maskTable_eq ▸ hentry)
  have hmask : w &&& row.mask ≠ row.pattern := fun hm => hbit (by rw [hm, (opcodeTable_masks row hmem).2])
  exact decode_of_unmasked hmask (rowOf_of_mem hmem (bitsAt_op_eq_iff.mp hop))

/-- R87: KSRD with SEL = 3. -/
theorem decode_ksrd_of_sel_three {w : Word} (hmask : w &&& 0xFF03FFF8 = 0x11000000) (hsel : bitsAt w 18 2 = 3) :
    decode w = .error .subkeyThree := by
  have hsel' : ¬(selField w).val < 3 := by rw [selField_val, ← bitsAt, hsel]; decide
  rw [decode_of_masked (row := ⟨0x11, 0x11000000, 0xFF03FFF8, ksrdOperands⟩) hmask rfl rfl]
  simp only [ksrdOperands, subkeyField, dif_neg hsel']

/-- R87: ENC and DEC with RA = RB. -/
theorem blockOperands_of_same {build : Reg → Reg → Instr} {w : Word} (h : bitsAt w 3 3 = bitsAt w 6 3) :
    blockOperands build w = .error .sameRegister :=
  if_pos (Fin.ext (by rw [raField, rbField, regField_val, regField_val]; exact h))

/-- Settles O4: such a word fails its row's mask test. -/
theorem nonzeroUnusedIsIllegal : Obligations.NonzeroUnusedIsIllegal := by
  refine ⟨fun w s hw hp => endsWith_illegal_of_decode hp (decode_of_nonzeroUnused hw), ?_⟩
  unfold NonzeroUnused
  decide

/-- A well-formed command of each OP. -/
def oneOfEachOp : List Instr :=
  [.nop, .gfmul 0 0 0 0, .gfpow7 0 0 0, .perm32 0 0, .sbox 0 0 0, .roundf 0 0 0 0 0, .roundk 0 0 0, .xor 0 0 0, .keyset 0 0,
   .ksrd 0 0 0, .enc 0 1, .dec 0 1]

/-- Settles O5: the three ranges hold no row's OP, and every other OP is that of a well-formed command's word. -/
theorem undefinedOpIsIllegal : Obligations.UndefinedOpIsIllegal := by
  refine ⟨fun w s hp hop => ?_, by decide +kernel, fun op hlt hop => ?_⟩
  · have hundef : UndefinedOp w := by
      simp only [UndefinedOp, maskTable, List.forall_mem_cons, List.not_mem_nil, false_imp_iff, implies_true, and_true]
      omega
    exact endsWith_illegal_of_decode hp (decode_of_undefinedOp hundef)
  · have hdefined : ∃ i ∈ oneOfEachOp, i.WellFormed ∧ bitsAt (encode i) 24 8 = op := by
      revert op
      decide +kernel
    obtain ⟨i, -, hwf, hi⟩ := hdefined
    exact ⟨encode i, i, hi, decodeOfEncode i hwf⟩

/-- Settles O6: the decoder refuses both after the mask test has passed, so no state matters. -/
theorem valueConstraintsAreIllegal : Obligations.ValueConstraintsAreIllegal := by
  refine ⟨fun w s hp hmask hsel => endsWith_illegal_of_decode hp (decode_ksrd_of_sel_three hmask hsel),
    fun w s hp hmask hreg => endsWith_illegal_of_decode (e := .sameRegister) hp ?_⟩
  rcases hmask with henc | hdec
  · exact (decode_of_masked (row := ⟨0x20, 0x20000000, 0xFFFFFE07, blockOperands .enc⟩) henc rfl rfl).trans
      (blockOperands_of_same hreg)
  · exact (decode_of_masked (row := ⟨0x21, 0x21000000, 0xFFFFFE07, blockOperands .dec⟩) hdec rfl rfl).trans
      (blockOperands_of_same hreg)

end Sys2Proof.Machine
end

section
/-! GF(2^8) (spec/41_gf_perm.md R110-R112): the loop of `gfMul` multiplies in GF(2)[x] modulo M(x), and what follows for
`gfPow7`. -/

namespace Sys2Proof.Machine

open Polynomial

/-! ### The polynomial of a bit vector -/

theorem coeff_bitPoly {n : Nat} (v : BitVec n) (i : Nat) : (bitPoly v).coeff i = if v.getLsbD i then 1 else 0 := by
  have hterm (j : Nat) : (if v.getLsbD j then X ^ j else 0 : (ZMod 2)[X]).coeff i =
      if i = j then if v.getLsbD i then 1 else 0 else 0 := by
    by_cases hij : i = j
    · subst hij
      cases v.getLsbD i <;> simp
    · cases v.getLsbD j <;> simp [coeff_X_pow, hij]
  simp only [bitPoly, finsetSum_coeff, hterm, Finset.sum_ite_eq, Finset.mem_range]
  exact ite_eq_left_iff.mpr fun hi => by simp [BitVec.getLsbD_of_ge v i (Nat.le_of_not_lt hi)]

theorem bitPoly_injective {n : Nat} : Function.Injective (bitPoly : BitVec n → (ZMod 2)[X]) := by
  intro v w h
  apply BitVec.eq_of_getLsbD_eq
  intro i _
  have hcoeff := congrArg (coeff · i) h
  revert hcoeff
  simp only [coeff_bitPoly]
  cases v.getLsbD i <;> cases w.getLsbD i <;> simp

@[simp] theorem bitPoly_zero {n : Nat} : bitPoly 0#n = 0 := by
  simp [bitPoly]

theorem bitPoly_xor {n : Nat} (v w : BitVec n) : bitPoly (v ^^^ w) = bitPoly v + bitPoly w := by
  ext i
  rw [coeff_add]
  simp only [coeff_bitPoly, BitVec.getLsbD_xor]
  cases v.getLsbD i <;> cases w.getLsbD i <;> decide

theorem bitPoly_twoPow {n k : Nat} (h : k < n) : bitPoly (BitVec.twoPow n k) = X ^ k := by
  ext i
  rw [coeff_bitPoly, coeff_X_pow]
  simp [BitVec.getLsbD_twoPow, h, eq_comm]

/-- A vector whose top bit is 0 has no bit from there on. -/
theorem getLsbD_eq_false_of_top {n i : Nat} {v : BitVec (n + 1)} (h : v.getLsbD n = false) (hi : n ≤ i) :
    v.getLsbD i = false := by
  rcases Nat.eq_or_lt_of_le hi with rfl | hlt
  · exact h
  · exact BitVec.getLsbD_of_ge v i hlt

/-- Extending a vector keeps its polynomial, and so does cutting off bits that are 0. -/
theorem bitPoly_setWidth {n k : Nat} {v : BitVec n} (h : ∀ i, k ≤ i → v.getLsbD i = false) :
    bitPoly (v.setWidth k) = bitPoly v := by
  ext i
  rw [coeff_bitPoly, coeff_bitPoly, BitVec.getLsbD_setWidth]
  by_cases hi : i < k
  · simp [hi]
  · simp [hi, h i (Nat.le_of_not_lt hi)]

theorem bitPoly_shiftLeft_one {n : Nat} {v : BitVec (n + 1)} (h : v.getLsbD n = false) : bitPoly (v <<< 1) = X * bitPoly v := by
  ext i
  cases i with
  | zero => simp [coeff_bitPoly]
  | succ i =>
    rw [coeff_X_mul, coeff_bitPoly, coeff_bitPoly, BitVec.getLsbD_shiftLeft]
    by_cases hi : i < n
    · simp [hi]
    · simp [getLsbD_eq_false_of_top h (Nat.le_of_not_lt hi)]

theorem degree_bitPoly_lt {n : Nat} (v : BitVec n) : (bitPoly v).degree < n := by
  rw [degree_lt_iff_coeff_zero]
  intro i hi
  simp [coeff_bitPoly, BitVec.getLsbD_of_ge v i hi]

/-- A modulus with bit 8 set is a monic polynomial of degree 8. -/
theorem monic_bitPoly {m : BitVec 9} (hm : m.getLsbD 8 = true) : (bitPoly m).Monic :=
  monic_of_degree_le 8 (Order.le_of_lt_succ (degree_bitPoly_lt m)) (by simp [coeff_bitPoly, hm])

theorem degree_bitPoly_modulus {m : BitVec 9} (hm : m.getLsbD 8 = true) : (bitPoly m).degree = 8 :=
  (Order.le_of_lt_succ (degree_bitPoly_lt m)).antisymm (le_degree_of_ne_zero (by simp [coeff_bitPoly, hm]))

/-! ### Residues modulo M(x) -/

/-- The residue of a bit vector's polynomial modulo M(x). -/
noncomputable def residue (m : BitVec 9) {n : Nat} (v : BitVec n) : AdjoinRoot (bitPoly m) :=
  AdjoinRoot.mk (bitPoly m) (bitPoly v)

@[simp] theorem residue_zero (m : BitVec 9) {n : Nat} : residue m 0#n = 0 := by
  simp [residue]

@[simp] theorem residue_self (m : BitVec 9) : residue m m = 0 := AdjoinRoot.mk_self

theorem residue_xor (m : BitVec 9) {n : Nat} (v w : BitVec n) : residue m (v ^^^ w) = residue m v + residue m w := by
  simp [residue, bitPoly_xor]

theorem residue_setWidth (m : BitVec 9) {n k : Nat} {v : BitVec n} (h : ∀ i, k ≤ i → v.getLsbD i = false) :
    residue m (v.setWidth k) = residue m v := congrArg _ (bitPoly_setWidth h)

theorem residue_twoPow (m : BitVec 9) {n k : Nat} (h : k < n) :
    residue m (BitVec.twoPow n k) = AdjoinRoot.root (bitPoly m) ^ k := by
  simp [residue, bitPoly_twoPow h]

@[simp] theorem residue_one (m : BitVec 9) : residue m 1#8 = 1 := (residue_twoPow m (k := 0) (by decide)).trans (pow_zero _)

section
variable {m : BitVec 9} (hm : m.getLsbD 8 = true)
include hm

/-- A byte is the remainder of every polynomial in its residue class. -/
theorem bitPoly_eq_modByMonic {v : Byte} {p : (ZMod 2)[X]} (h : residue m v = AdjoinRoot.mk (bitPoly m) p) :
    bitPoly v = p %ₘ bitPoly m := by
  have hmonic := monic_bitPoly hm
  have hdeg : (bitPoly v).degree < (bitPoly m).degree := degree_bitPoly_modulus hm ▸ degree_bitPoly_lt v
  rw [← (modByMonic_eq_self_iff hmonic).mpr hdeg]
  exact modByMonic_eq_of_dvd_sub hmonic (AdjoinRoot.mk_eq_mk.mp h)

theorem residue_injective : Function.Injective (residue m : Byte → AdjoinRoot (bitPoly m)) := fun _ _ h =>
  bitPoly_injective ((bitPoly_eq_modByMonic hm h).trans (bitPoly_eq_modByMonic hm rfl).symm)

end

/-! ### The loop of R110 -/

section
variable {m : BitVec 9} (b : Byte) {p : Byte × BitVec 9} (i : Nat)

/-- The reduction after the shift clears bit 8 again. -/
theorem gfMulStep_acc_bit8 (hm : m.getLsbD 8 = true) : (gfMulStep b m p i).2.getLsbD 8 = false := by
  simp only [gfMulStep]
  split
  next h => rw [BitVec.getLsbD_xor, h, hm]; rfl
  next h => exact eq_false_of_ne_true h

/-- The shift multiplies by x, and the reduction stays in the residue class. -/
theorem residue_gfMulStep_acc (hacc : p.2.getLsbD 8 = false) :
    residue m (gfMulStep b m p i).2 = AdjoinRoot.root (bitPoly m) * residue m p.2 := by
  have hshift : residue m (p.2 <<< 1) = AdjoinRoot.root (bitPoly m) * residue m p.2 := by
    simp [residue, bitPoly_shiftLeft_one hacc]
  simp only [gfMulStep]
  split
  · rw [residue_xor, residue_self, add_zero, hshift]
  · exact hshift

/-- The accumulator is added where the bit of the second factor is set. -/
theorem residue_gfMulStep_res (hacc : p.2.getLsbD 8 = false) :
    residue m (gfMulStep b m p i).1 = residue m p.1 + if b.getLsbD i then residue m p.2 else 0 := by
  simp only [gfMulStep]
  split
  · rw [residue_xor, residue_setWidth m fun _ => getLsbD_eq_false_of_top hacc]
  · rw [add_zero]

end

/-- R110's loop after its first `k` iterations. -/
def gfMulLoop (a b : Byte) (m : BitVec 9) (k : Nat) : Byte × BitVec 9 :=
  (List.range k).foldl (gfMulStep b m) (0, a.setWidth 9)

theorem gfMulLoop_succ (a b : Byte) (m : BitVec 9) (k : Nat) :
    gfMulLoop a b m (k + 1) = gfMulStep b m (gfMulLoop a b m k) k := by
  rw [gfMulLoop, List.range_succ, List.foldl_append]
  rfl

theorem gfMul_eq_gfMulLoop (a b : Byte) (m : BitVec 9) : gfMul a b m = (gfMulLoop a b m 8).1 := rfl

/-- The loop's invariant: the accumulator is below x^8 and congruent to x^k·a, the result to a times the low `k` bits of b. -/
structure GfMulInv (a b : Byte) (m : BitVec 9) (k : Nat) : Prop where
  acc_bit8 : (gfMulLoop a b m k).2.getLsbD 8 = false
  residue_acc : residue m (gfMulLoop a b m k).2 = AdjoinRoot.root (bitPoly m) ^ k * residue m a
  residue_res : residue m (gfMulLoop a b m k).1 =
    residue m a * AdjoinRoot.mk (bitPoly m) (∑ i ∈ Finset.range k, if b.getLsbD i then X ^ i else 0)

theorem gfMulInv (a b : Byte) {m : BitVec 9} (hm : m.getLsbD 8 = true) (k : Nat) : GfMulInv a b m k := by
  induction k with
  | zero =>
    refine ⟨?_, ?_, ?_⟩
    · simp [gfMulLoop]
    · simpa [gfMulLoop] using residue_setWidth m fun i hi => BitVec.getLsbD_of_ge a i (by omega)
    · simp [gfMulLoop]
  | succ k ih =>
    obtain ⟨hbit, hacc, hres⟩ := ih
    refine ⟨?_, ?_, ?_⟩ <;> rw [gfMulLoop_succ]
    · exact gfMulStep_acc_bit8 b k hm
    · rw [residue_gfMulStep_acc b k hbit, hacc, pow_succ', mul_assoc]
    · rw [residue_gfMulStep_res b k hbit, hres, hacc, Finset.sum_range_succ, map_add, mul_add]
      split
      · rw [map_pow, AdjoinRoot.mk_X, mul_comm (_ ^ k)]
      · simp

/-- R111: `gfMul` is the product modulo M(x). -/
theorem residue_gfMul {m : BitVec 9} (hm : m.getLsbD 8 = true) (a b : Byte) :
    residue m (gfMul a b m) = residue m a * residue m b :=
  gfMul_eq_gfMulLoop a b m ▸ (gfMulInv a b hm 8).residue_res

/-- R115: 0 absorbs on both sides, and 1 is neutral. -/
theorem gfMul_corners {m : BitVec 9} (hm : m.getLsbD 8 = true) (b : Byte) :
    gfMul 0 b m = 0 ∧ gfMul b 0 m = 0 ∧ gfMul 1 b m = b := by
  refine ⟨?_, ?_, ?_⟩ <;> apply residue_injective hm <;> simp [residue_gfMul hm]

/-! ### The seventh power -/

theorem residue_gfPow7 {m : BitVec 9} (hm : m.getLsbD 8 = true) (b : Byte) : residue m (gfPow7 b m) = residue m b ^ 7 := by
  simp only [gfPow7, residue_gfMul hm]
  ring

/-- R112: 0 gives 0 and 1 gives 1. -/
theorem gfPow7_zero_one {m : BitVec 9} (hm : m.getLsbD 8 = true) : gfPow7 0 m = 0 ∧ gfPow7 1 m = 1 := by
  constructor <;> apply residue_injective hm <;> simp [residue_gfPow7 hm]

/-- R116: x^7 is below x^8, so it is its own remainder. -/
theorem gfPow7_two {m : BitVec 9} (hm : m.getLsbD 8 = true) : gfPow7 0x02 m = 0x80 := by
  apply residue_injective hm
  calc residue m (gfPow7 (BitVec.twoPow 8 1) m) = (AdjoinRoot.root (bitPoly m) ^ 1) ^ 7 := by
        rw [residue_gfPow7 hm, residue_twoPow m (by decide)]
    _ = residue m (BitVec.twoPow 8 7) := by rw [← pow_mul, residue_twoPow m (by decide)]

/-- Settles O9: the chain raises the residue to the seventh power, and a byte is the remainder of its residue class. -/
theorem gfPow7IsSeventhPower : Obligations.GfPow7IsSeventhPower := by
  intro m hm
  refine ⟨fun b => bitPoly_eq_modByMonic hm ?_, ?_, gfPow7_zero_one hm⟩
  · rw [residue_gfPow7 hm, map_pow]
    rfl
  · rintro b _ _ _ rfl rfl rfl
    rfl

end Sys2Proof.Machine
end

section
/-! The permutation PERM32 (spec/41_gf_perm.md R113, R114): `perm32` moves each bit of its operand to a position of its own. -/

namespace Sys2Proof.Machine

/-! ### The table -/

/-- POS of R114: the position to which `perm32` moves each bit. -/
def bitPos : List Nat :=
  [0, 7, 10, 13, 19, 21, 24, 30, 3, 5, 8, 14, 16, 23, 26, 29, 2, 4, 9, 15, 17, 22, 27, 28, 1, 6, 11, 12, 18, 20, 25, 31]

/-- PBOX has the one bit POS[i] in entry i (R114). -/
theorem pbox_eq_map_bitPos : pbox = bitPos.map fun p => 1#32 <<< p := by decide

theorem bitPos_nodup : bitPos.Nodup := by decide

theorem mem_bitPos_iff {p : Nat} : p ∈ bitPos ↔ p < 32 :=
  ⟨(by decide : ∀ p ∈ bitPos, p < 32) p, (by decide : ∀ p < 32, p ∈ bitPos) p⟩

/-! ### Where a bit goes -/

/-- R113's loop sets the bits of each entry whose own bit of the operand is set. -/
theorem scatter_getLsbD_iff (v : Word) (ps : List Word) (i j : Nat) (res : Word) :
    (scatter v ps i res).getLsbD j = true ↔
      res.getLsbD j = true ∨ ∃ q ∈ ps.zipIdx i, v.getLsbD q.2 = true ∧ q.1.getLsbD j = true := by
  induction ps generalizing i res with
  | nil => simp [scatter]
  | cons p ps ih =>
    rw [scatter, ih, List.zipIdx_cons]
    cases hv : v.getLsbD i <;> simp [hv, or_assoc]

/-- A bit of the result is set exactly where it is the position of a set bit of the operand. -/
theorem perm32_getLsbD_iff {v : Word} {j : Nat} :
    (perm32 v).getLsbD j = true ↔ ∃ i, bitPos[i]? = some j ∧ v.getLsbD i = true := by
  have hentry {i p : Nat} (h : bitPos[i]? = some p) : (1#32 <<< p).getLsbD j = true ↔ p = j := by
    have hp : p < 32 := mem_bitPos_iff.mp (List.mem_of_getElem? h)
    rw [← BitVec.twoPow_eq, BitVec.getLsbD_twoPow]
    simp [hp]
  rw [perm32, scatter_getLsbD_iff, pbox_eq_map_bitPos]
  simp only [List.zipIdx_map, List.mem_map, Prod.exists, List.mem_zipIdx_iff_getElem?]
  constructor
  · rintro (hzero | ⟨_, _, ⟨p, i, hi, hq⟩, hv, hj⟩)
    · simp at hzero
    · cases hq
      exact ⟨i, (hentry hi).mp hj ▸ hi, hv⟩
  · rintro ⟨i, hi, hv⟩
    exact .inr ⟨_, i, ⟨j, i, hi, rfl⟩, hv, (hentry hi).mpr rfl⟩

theorem perm32_getLsbD_bitPos (v : Word) {i : Nat} (hi : i < 32) : (perm32 v).getLsbD (bitPos.getD i 0) = v.getLsbD i := by
  have hpos : bitPos[i]? = some (bitPos.getD i 0) := by rw [List.getElem?_eq_getElem hi, List.getD_eq_getElem _ _ hi]
  rw [Bool.eq_iff_iff, perm32_getLsbD_iff, ← hpos]
  constructor
  · rintro ⟨k, hk, hv⟩
    rwa [(List.getElem?_inj hi bitPos_nodup).mp hk.symm]
  · exact fun hv => ⟨i, rfl, hv⟩

/-- The moved bits determine the result. -/
theorem perm32_eq_of_bits {v u : Word} (h : ∀ i < 32, u.getLsbD (bitPos.getD i 0) = v.getLsbD i) : perm32 v = u := by
  apply BitVec.eq_of_getLsbD_eq
  intro j hj
  obtain ⟨i, hi, rfl⟩ := List.getElem_of_mem (mem_bitPos_iff.mpr hj)
  have hbit := (perm32_getLsbD_bitPos v hi).trans (h i hi).symm
  rwa [List.getD_eq_getElem _ _ hi] at hbit

theorem perm32_xor (v w : Word) : perm32 (v ^^^ w) = perm32 v ^^^ perm32 w :=
  perm32_eq_of_bits fun i hi => by simp only [BitVec.getLsbD_xor, perm32_getLsbD_bitPos _ hi]

theorem perm32_or (v w : Word) : perm32 (v ||| w) = perm32 v ||| perm32 w :=
  perm32_eq_of_bits fun i hi => by simp only [BitVec.getLsbD_or, perm32_getLsbD_bitPos _ hi]

theorem perm32_injective : Function.Injective perm32 := by
  intro v w h
  apply BitVec.eq_of_getLsbD_eq
  intro i hi
  rw [← perm32_getLsbD_bitPos v hi, h, perm32_getLsbD_bitPos w hi]

/-- An injection of the finitely many words into themselves is a bijection. -/
theorem perm32_bijective : Function.Bijective perm32 := by
  have : Finite Word := Finite.of_injective BitVec.toFin fun _ _ => BitVec.eq_of_toFin_eq
  exact Finite.injective_iff_bijective.mp perm32_injective

theorem perm32_zero : perm32 0 = 0 := by decide

theorem perm32_allOnes : perm32 0xFFFFFFFF = 0xFFFFFFFF := by decide

/-- Settles O10: where each bit goes determines the permutation, and it goes where its entry of PBOX has its one bit. -/
theorem perm32MovesEachBit : Obligations.Perm32MovesEachBit :=
  ⟨pbox_eq_map_bitPos, bitPos_nodup, fun _ => mem_bitPos_iff.mpr, fun v _ => perm32_getLsbD_bitPos v, perm32_bijective,
    perm32_zero, perm32_allOnes, perm32_xor, perm32_or⟩

end Sys2Proof.Machine
end

section
/-! What the command statements share (spec/30_encoding.md R85, R88, spec/60_exceptions.md R262): the words of a row, and the
results of a write and of an error. -/

namespace Sys2Proof.Machine

/-! ### The words of a row -/

/-- A register field holds the register whose number the bits spell. -/
theorem regField_eq_of_bitsAt {w : Word} {lo : Nat} {r : Reg} (h : r.val = bitsAt w lo 3) : regField w lo = r :=
  Fin.ext ((regField_val w lo).trans h.symm)

/-- R85: a word with a row's OP that fails the row's mask test ends with ILLEGAL. -/
theorem illegalOutside_of_mem {row : Row} (hmem : row ∈ opcodeTable) : IllegalOutside row.op.toNat row.mask row.pattern :=
  fun _ _ hop hmask hp =>
    endsWith_illegal_of_decode hp (decode_of_unmasked hmask (rowOf_of_mem hmem (bitsAt_op_eq_iff.mp hop)))

/-! ### Results -/

theorem endsWith_finish (s : State) (c : Code) : EndsWith c.bits (.next (s.finish c)) s :=
  ⟨_, rfl, rfl, ⟨rfl, rfl⟩, completed_finish s c⟩

theorem wrote_writeBack (rd : Reg) (v : Word) (s : State) : Wrote rd v (writeBack rd v s) s :=
  ⟨_, rfl, State.writeReg_same s rd v, fun _ hr => State.writeReg_other s v (List.ne_of_not_mem_cons hr), ⟨rfl, rfl⟩,
    completed_finish (s.writeReg rd v) .ok⟩

/-- A checked write of a value that is in the command's domain. -/
theorem wrote_writeBackChecked {rd : Reg} {v : Option Word} {u : Word} (s : State) (h : v = some u) :
    Wrote rd u (writeBackChecked rd v s) s := h ▸ wrote_writeBack rd u s

/-- A checked write outside the command's domain ends with OPERAND. -/
theorem endsWith_writeBackChecked {rd : Reg} {v : Option Word} (s : State) (h : v = none) :
    EndsWith 3 (writeBackChecked rd v s) s := h ▸ endsWith_finish s .operand

end Sys2Proof.Machine
end

section
/-! The commands GFMUL, GFPOW7 and PERM32 (spec/41_gf_perm.md R115-R117). -/

namespace Sys2Proof.Machine

/-! ### The operands' domains -/

theorem gfMulWord_some {a b m : Word} (ha : a ≤ 0xFF#32) (hb : b ≤ 0xFF#32) (hm : 0x100#32 ≤ m) (hm' : m ≤ 0x1FF#32) :
    gfMulWord a b m = some ((gfMul (a.setWidth 8) (b.setWidth 8) (m.setWidth 9)).setWidth 32) := by
  simp only [gfMulWord, gfElement_some ha, gfElement_some hb, gfModulus_some hm hm']

theorem gfMulWord_none {a b m : Word} (h : 0xFF#32 < a ∨ 0xFF#32 < b ∨ m < 0x100#32 ∨ 0x1FF#32 < m) :
    gfMulWord a b m = none := by
  rcases h with ha | hb | hm
  · simp [gfMulWord, gfElement_none ha]
  · simp [gfMulWord, gfElement_none hb]
  · simp [gfMulWord, gfModulus_none hm]

theorem gfPow7Word_some {b m : Word} (hb : b ≤ 0xFF#32) (hm : 0x100#32 ≤ m) (hm' : m ≤ 0x1FF#32) :
    gfPow7Word b m = some ((gfPow7 (b.setWidth 8) (m.setWidth 9)).setWidth 32) := by
  simp only [gfPow7Word, gfElement_some hb, gfModulus_some hm hm']

theorem gfPow7Word_none {b m : Word} (h : 0xFF#32 < b ∨ m < 0x100#32 ∨ 0x1FF#32 < m) : gfPow7Word b m = none := by
  rcases h with hb | hm
  · simp [gfPow7Word, gfElement_none hb]
  · simp [gfPow7Word, gfModulus_none hm]

/-! ### The words -/

theorem decode_gfmul {w : Word} (h : w &&& 0xFFFFF000 = 0x01000000) :
    decode w = .ok (.gfmul (rdField w) (raField w) (rbField w) (rcField w)) :=
  decode_of_masked (row := opcodeTable[1]) h rfl rfl

theorem decode_gfpow7 {w : Word} (h : w &&& 0xFFFFFE00 = 0x02000000) :
    decode w = .ok (.gfpow7 (rdField w) (raField w) (rbField w)) :=
  decode_of_masked (row := opcodeTable[2]) h rfl rfl

theorem decode_perm32 {w : Word} (h : w &&& 0xFFFFFFC0 = 0x03000000) : decode w = .ok (.perm32 (rdField w) (raField w)) :=
  decode_of_masked (row := opcodeTable[3]) h rfl rfl

/-! ### The commands -/

/-- Settles O11: the mask test names GFMUL's row, the ranges decide between the product and OPERAND, and the corner cases are
those of the product modulo M(x). -/
theorem gfmulCommand : Obligations.GfmulCommand := by
  refine ⟨fun w rd ra rb rc hmask hrd hra hrb hrc => ?_, illegalOutside_of_mem (row := opcodeTable[1]) (List.getElem_mem _),
    fun rd ra rb rc s ha hb hm hm' => wrote_writeBackChecked s (gfMulWord_some ha hb hm hm'),
    fun rd ra rb rc s h => endsWith_writeBackChecked s (gfMulWord_none h),
    fun b m hm => gfMul_corners hm b, by decide, by decide⟩
  rw [decode_gfmul hmask, rdField, raField, rbField, rcField, regField_eq_of_bitsAt hrd, regField_eq_of_bitsAt hra,
    regField_eq_of_bitsAt hrb, regField_eq_of_bitsAt hrc]

/-- Settles O12: the mask test names GFPOW7's row, the ranges decide between the power and OPERAND, and the corner cases are
those of the power modulo M(x). -/
theorem gfpow7Command : Obligations.Gfpow7Command := by
  refine ⟨fun w rd ra rb hmask hrd hra hrb => ?_, illegalOutside_of_mem (row := opcodeTable[2]) (List.getElem_mem _),
    fun rd ra rb s hb hm hm' => wrote_writeBackChecked s (gfPow7Word_some hb hm hm'),
    fun rd ra rb s h => endsWith_writeBackChecked s (gfPow7Word_none h), fun m hm => ?_, by decide⟩
  · rw [decode_gfpow7 hmask, rdField, raField, rbField, regField_eq_of_bitsAt hrd, regField_eq_of_bitsAt hra,
      regField_eq_of_bitsAt hrb]
  · obtain ⟨hzero, hone⟩ := gfPow7_zero_one hm
    exact ⟨hzero, hone, gfPow7_two hm⟩

/-- Settles O13: the mask test names PERM32's row, every operand is written permuted, and POS fixes 0 and 31. -/
theorem perm32Command : Obligations.Perm32Command := by
  refine ⟨fun w rd ra hmask hrd hra => ?_, illegalOutside_of_mem (row := opcodeTable[3]) (List.getElem_mem _),
    fun rd ra s => wrote_writeBack rd (perm32 s.x[ra]) s,
    fun v => ⟨perm32_getLsbD_bitPos v (i := 0) (by decide), perm32_getLsbD_bitPos v (i := 31) (by decide)⟩,
    perm32_zero, perm32_allOnes, by decide, by decide⟩
  rw [decode_perm32 hmask, rdField, raField, regField_eq_of_bitsAt hrd, regField_eq_of_bitsAt hra]

end Sys2Proof.Machine
end

section
/-! The contents of the S-box ROM and the command SBOX (spec/42_sbox.md R140-R143, R146). -/

namespace Sys2Proof.Machine

/-! ### Contents -/

/-- R142: the column by arithmetic. -/
theorem sboxCol_eq_ofNat (i : BitVec 10) : sboxCol i = BitVec.ofNat 8 (i.toNat / 2 % 256) := by
  apply BitVec.eq_of_toNat_eq
  rw [sboxCol, BitVec.extractLsb'_toNat, Nat.shiftRight_eq_div_pow, BitVec.toNat_ofNat, Nat.mod_mod]

/-- R142: the row by arithmetic. -/
theorem sboxRow_val (i : BitVec 10) : (sboxRow i).val = 2 * (i.toNat / 512) + i.toNat % 2 := by
  rw [sboxRow, BitVec.val_toFin, toNat_append_eq_add, BitVec.extractLsb'_toNat, BitVec.extractLsb'_toNat,
    Nat.shiftRight_eq_div_pow, Nat.shiftRight_zero]
  omega

/-- Settles O15: the written matrices are SMOD and SXOR, and the index's fields are its column and row. -/
theorem sboxContents : Obligations.SboxContents := by
  unfold Obligations.SboxContents
  intro modulus constant t i _ _ rfl rfl
  have hmod (row : Fin 4) : (modulus.getD t []).getD row 0 = smod[t][row] := by decide +revert
  have hxor (row : Fin 4) : (constant.getD t []).getD row 0 = sxor[t][row] := by decide +revert
  rw [← sboxCol_eq_ofNat, ← sboxRow_val, hmod, hxor, sboxEntry]

/-! ### The command -/

/-- SEL holds the number that its bits spell. -/
theorem selField_eq_of_bitsAt {w : Word} {t : Fin 4} (h : t.val = bitsAt w 18 2) : selField w = t :=
  Fin.ext ((selField_val w).trans h.symm)

theorem decode_sbox {w : Word} (h : w &&& 0xFFF3FFC0 = 0x04000000) :
    decode w = .ok (.sbox (rdField w) (raField w) (selField w)) :=
  decode_of_masked (row := opcodeTable[4]) h rfl rfl

theorem sboxWord_some (t : Fin 4) {v : Word} (h : v ≤ 0x3FF#32) : sboxWord t v = some (sboxEntry t (v.setWidth 10)) := by
  rw [sboxWord, sboxIndex_some h, Option.map_some]

theorem sboxWord_none (t : Fin 4) {v : Word} (h : 0x3FF#32 < v) : sboxWord t v = none := by
  rw [sboxWord, sboxIndex_none h, Option.map_none]

/-- Settles O17: the mask test names SBOX's row, and the index's range decides between the entry and OPERAND. -/
theorem sboxCommand : Obligations.SboxCommand := by
  refine ⟨fun w rd ra t hmask hrd hra ht => ?_, illegalOutside_of_mem (row := opcodeTable[4]) (List.getElem_mem _),
    fun rd ra t s h => wrote_writeBackChecked s (sboxWord_some t h),
    fun rd ra t s h => endsWith_writeBackChecked s (sboxWord_none t h), by decide, by decide⟩
  rw [decode_sbox hmask, rdField, raField, regField_eq_of_bitsAt hrd, regField_eq_of_bitsAt hra, selField_eq_of_bitsAt ht]

end Sys2Proof.Machine
end

section
/-! The four tables of the S-box ROM are disjoint (spec/42_sbox.md R145): the entries of two tables share no bit, so an OR of one
entry of each is their XOR. -/

namespace Sys2Proof.Machine

theorem perm32_and (v w : Word) : perm32 (v &&& w) = perm32 v &&& perm32 w :=
  perm32_eq_of_bits fun i hi => by simp only [BitVec.getLsbD_and, perm32_getLsbD_bitPos _ hi]

theorem or_eq_xor_of_and_eq_zero {n : Nat} {v w : BitVec n} (h : v &&& w = 0) : v ||| w = v ^^^ w := by
  apply BitVec.eq_of_getLsbD_eq
  intro j _
  have hbit : (v.getLsbD j && w.getLsbD j) = false := by
    rw [← BitVec.getLsbD_and, h, BitVec.ofNat_eq_ofNat, BitVec.getLsbD_zero]
  rw [BitVec.getLsbD_or, BitVec.getLsbD_xor]
  cases hv : v.getLsbD j with
  | false => rw [Bool.false_or, Bool.false_xor]
  | true => rw [hv, Bool.true_and] at hbit; rw [hbit, Bool.true_or, Bool.true_xor, Bool.not_false]

/-- Before the permutation, the bytes of two tables stand at different places of the word (R143). -/
theorem placedBytes_and (b c : Byte) {t u : Fin 4} (h : t < u) :
    b.setWidth 32 <<< (24 - 8 * t.val) &&& c.setWidth 32 <<< (24 - 8 * u.val) = 0 := by
  have htu : t.val < u.val := h
  apply BitVec.eq_of_getLsbD_eq
  intro j _
  by_cases hj : j < 24 - 8 * t.val
  · simp [hj]
  · simp [BitVec.getLsbD_of_ge c (j - (24 - 8 * u.val)) (by omega)]

theorem sboxEntry_and_sboxEntry {t u : Fin 4} (h : t < u) (i k : BitVec 10) : sboxEntry t i &&& sboxEntry u k = 0 := by
  rw [sboxEntry, sboxEntry, ← perm32_and, placedBytes_and _ _ h, perm32_zero]

theorem sboxEntries_or_eq_xor (i0 i1 i2 i3 : BitVec 10) :
    sboxEntry 0 i0 ||| sboxEntry 1 i1 ||| sboxEntry 2 i2 ||| sboxEntry 3 i3 =
      sboxEntry 0 i0 ^^^ sboxEntry 1 i1 ^^^ sboxEntry 2 i2 ^^^ sboxEntry 3 i3 := by
  have hand {t u : Fin 4} (h : t < u) := sboxEntry_and_sboxEntry h
  rw [or_eq_xor_of_and_eq_zero (w := sboxEntry 3 i3), or_eq_xor_of_and_eq_zero (w := sboxEntry 2 i2),
    or_eq_xor_of_and_eq_zero (w := sboxEntry 1 i1)]
  · exact hand (by decide) i0 i1
  · exact or_and_of_and_eq_zero (hand (by decide) i0 i2) (hand (by decide) i1 i2)
  · exact or_and_of_and_eq_zero (or_and_of_and_eq_zero (hand (by decide) i0 i3) (hand (by decide) i1 i3))
      (hand (by decide) i2 i3)

end Sys2Proof.Machine
end

section
/-! The round function F (spec/43_round.md R161-R163): key mixing bit by bit, and F as the combination of its four lookups. -/

namespace Sys2Proof.Machine

/-! ### Key mixing -/

/-- Settles O19: where sk2's bit is 0 the difference of tl and tr is dropped, and where it is 1 it is XORed into both, which
exchanges them. -/
theorem keyMixingSwapsBySk2 : Obligations.KeyMixingSwapsBySk2 := by
  intro tl tr sk0 sk1 sk2 j _
  cases hswap : sk2.getLsbD j with
  | false => simp [keyMix, hswap]
  | true => simp [keyMix, hswap, Bool.xor_left_comm]

/-- With sk2 = 0 nothing is exchanged (R164). -/
theorem keyMix_zero (tl tr sk0 sk1 : Subkey) : keyMix tl tr #v[sk0, sk1, 0] = (tl ^^^ sk0, tr ^^^ sk1) := by
  simp [keyMix]

/-- With every bit of sk2 set, tl and tr are exchanged (R164). -/
theorem keyMix_allOnes (tl tr sk0 sk1 : Subkey) : keyMix tl tr #v[sk0, sk1, 0xFFFFF] = (tr ^^^ sk0, tl ^^^ sk1) := by
  have hall (v : Subkey) : 0xFFFFF#20 &&& v = v := BitVec.allOnes_and
  apply Prod.ext
  · simp [keyMix, hall, BitVec.xor_comm tl tr]
  · simp [keyMix, hall]

/-! ### The lookups -/

/-- R162: the index `v >> 10` by arithmetic. -/
theorem extract_high_eq_ofNat (v : Subkey) : v.extractLsb' 10 10 = BitVec.ofNat 10 (v.toNat / 1024) :=
  congrArg (BitVec.ofNat 10) (Nat.shiftRight_eq_div_pow v.toNat 10)

/-- R162: the index `v & 0x3FF` by arithmetic. -/
theorem extract_low_eq_ofNat (v : Subkey) : v.extractLsb' 0 10 = BitVec.ofNat 10 (v.toNat % 1024) := by
  apply BitVec.eq_of_toNat_eq
  rw [BitVec.extractLsb'_toNat, BitVec.toNat_ofNat, Nat.mod_mod, Nat.shiftRight_zero]

/-- Settles O20: the OR is R162 with its indices by arithmetic, and the four tables are disjoint. -/
theorem roundFunctionLookups : Obligations.RoundFunctionLookups := by
  intro p sk0 sk1 sk2 al ar hmix
  have hor : roundF p #v[sk0, sk1, sk2] = substitute al ar := by rw [roundF, ← hmix]
  rw [substitute, extract_high_eq_ofNat, extract_high_eq_ofNat, extract_low_eq_ofNat, extract_low_eq_ofNat] at hor
  exact ⟨hor, hor.trans (sboxEntries_or_eq_xor _ _ _ _)⟩

/-- F reads a round's subkeys only through the three components. -/
theorem roundF_components (p : Word) (sk : Subkeys) : roundF p #v[sk[0], sk[1], sk[2]] = roundF p sk := rfl

end Sys2Proof.Machine
end

section
/-! The commands ROUNDF and ROUNDK (spec/43_round.md R164, R165), and a block encrypted with ROUNDK and XOR commands in the order
of spec/45_block_cipher.md R220. -/

namespace Sys2Proof.Machine

/-! ### The words -/

/-- RND holds the number that its bits spell. -/
theorem rndField_eq_of_bitsAt {w : Word} {r : Fin 16} (h : r.val = bitsAt w 20 4) : rndField w = r :=
  Fin.ext ((rndField_val w).trans h.symm)

theorem decode_roundf {w : Word} (h : w &&& 0xFFFF8000 = 0x05000000) :
    decode w = .ok (.roundf (rdField w) (raField w) (rbField w) (rcField w) (reField w)) :=
  decode_of_masked (row := opcodeTable[5]) h rfl rfl

theorem decode_roundk {w : Word} (h : w &&& 0xFF0FFFC0 = 0x06000000) :
    decode w = .ok (.roundk (rdField w) (raField w) (rndField w)) :=
  decode_of_masked (row := opcodeTable[6]) h rfl rfl

/-! ### ROUNDF -/

/-- R164: bits 31:20 of sk2 are ignored. -/
theorem swapOperand_eq_masked (v : Word) : swapOperand v = (v &&& 0xFFFFF).setWidth 20 := by
  rw [BitVec.setWidth_and]
  exact BitVec.and_allOnes.symm

theorem roundFWord_some {p k0 k1 : Word} (h0 : k0 ≤ 0xFFFFF#32) (h1 : k1 ≤ 0xFFFFF#32) (k2 : Word) :
    roundFWord p k0 k1 k2 = some (roundF p #v[k0.setWidth 20, k1.setWidth 20, (k2 &&& 0xFFFFF).setWidth 20]) := by
  simp only [roundFWord, subkeyOperand_some h0, subkeyOperand_some h1, swapOperand_eq_masked]

theorem roundFWord_none {p k0 k1 : Word} (h : 0xFFFFF#32 < k0 ∨ 0xFFFFF#32 < k1) (k2 : Word) :
    roundFWord p k0 k1 k2 = none := by
  rcases h with h0 | h1
  · simp [roundFWord, subkeyOperand_none h0]
  · simp [roundFWord, subkeyOperand_none h1]

/-- Settles O21: the mask test names ROUNDF's row, and the ranges of sk0 and sk1 decide between F and OPERAND. -/
theorem roundfCommand : Obligations.RoundfCommand := by
  refine ⟨fun w rd ra rb rc re hmask hrd hra hrb hrc hre => ?_,
    illegalOutside_of_mem (row := opcodeTable[5]) (List.getElem_mem _),
    fun rd ra rb rc re s h0 h1 => wrote_writeBackChecked s (roundFWord_some h0 h1 _),
    fun rd ra rb rc re s h => endsWith_writeBackChecked s (roundFWord_none h _),
    fun tl tr sk0 sk1 => ⟨keyMix_zero tl tr sk0 sk1, keyMix_allOnes tl tr sk0 sk1⟩, by decide⟩
  rw [decode_roundf hmask, rdField, raField, rbField, rcField, reField, regField_eq_of_bitsAt hrd,
    regField_eq_of_bitsAt hra, regField_eq_of_bitsAt hrb, regField_eq_of_bitsAt hrc, regField_eq_of_bitsAt hre]

/-! ### ROUNDK and XOR, one command each -/

theorem wrote_roundk (rd ra : Reg) (r : Fin 16) {s : State} (hk : s.keyValid = true) :
    Wrote rd (roundF s.x[ra] s.ks[r]) (exec (.roundk rd ra r) s) s := by
  show Wrote _ _ (withKey s _) s
  rw [withKey_set hk]
  exact wrote_writeBack rd _ s

theorem endsWith_roundk (rd ra : Reg) (r : Fin 16) {s : State} (hk : s.keyValid = false) :
    EndsWith 2 (exec (.roundk rd ra r) s) s := by
  show EndsWith _ (withKey s _) s
  rw [withKey_unset hk]
  exact endsWith_finish s .nokey

theorem wrote_xor (rd ra rb : Reg) (s : State) : Wrote rd (s.x[ra] ^^^ s.x[rb]) (exec (.xor rd ra rb) s) s :=
  wrote_writeBack rd _ s

/-! ### ROUNDK and XOR, a whole block -/

theorem KeyKept.trans {s t u : State} (h : KeyKept s t) (h' : KeyKept t u) : KeyKept s u :=
  ⟨h'.1.trans h.1, h'.2.trans h.2⟩

/-- A command that completes with one register written hands its state on to the commands after it. -/
theorem execAll_cons_of_wrote {i : Instr} {rd : Reg} {v : Word} {s : State} (h : Wrote rd v (exec i s) s) :
    ∃ t, (∀ rest, execAll (i :: rest) s = execAll rest t) ∧ t.x[rd] = v ∧ RegsKept [rd] s t ∧ KeyKept s t := by
  obtain ⟨t, ht, hv, hregs, hkey, -⟩ := h
  exact ⟨t, fun rest => by rw [execAll, ht], hv, hregs, hkey⟩

/-- The ROUNDK and the XOR of half a loop step of R220: the half in `ra` takes F of the half in `rb`. -/
theorem execAll_halfRound {ra rb rt : Reg} (hab : ra ≠ rb) (hta : rt ≠ ra) (htb : rt ≠ rb) (r : Fin 16) {s : State}
    (hk : s.keyValid = true) :
    ∃ t, (∀ rest, execAll (.roundk rt rb r :: .xor ra ra rt :: rest) s = execAll rest t) ∧
      t.x[ra] = s.x[ra] ^^^ roundF s.x[rb] s.ks[r] ∧ t.x[rb] = s.x[rb] ∧ KeyKept s t := by
  obtain ⟨u, hrunF, hF, hkeptF, hkeyF⟩ := execAll_cons_of_wrote (wrote_roundk rt rb r hk)
  obtain ⟨t, hrunX, hX, hkeptX, hkeyX⟩ := execAll_cons_of_wrote (wrote_xor ra ra rt u)
  refine ⟨t, fun rest => (hrunF _).trans (hrunX rest), ?_, ?_, hkeyF.trans hkeyX⟩
  · rw [hX, hF, hkeptF ra (by simpa using hta.symm)]
  · rw [hkeptX rb (by simpa using hab.symm), hkeptF rb (by simpa using htb.symm)]

/-- The four commands of one loop step of R220, with rounds `ij.1` and `ij.2`. -/
def stepCommands (ra rb rt : Reg) (ij : Fin 16 × Fin 16) : List Instr :=
  [.roundk rt rb ij.1, .xor ra ra rt, .roundk rt ra ij.2, .xor rb rb rt]

theorem roundByRound_eq_flatMap (ra rb rt : Reg) :
    roundByRound ra rb rt = encryptRounds.flatMap (stepCommands ra rb rt) := rfl

/-- The commands of any loop steps compute those steps on the halves in `ra` and `rb`. -/
theorem execAll_stepCommands {ra rb rt : Reg} (hab : ra ≠ rb) (hta : rt ≠ ra) (htb : rt ≠ rb)
    (rounds : List (Fin 16 × Fin 16)) {s : State} (hk : s.keyValid = true) :
    ∃ t, execAll (rounds.flatMap (stepCommands ra rb rt)) s = .next t ∧
      (t.x[ra], t.x[rb]) = rounds.foldl (feistelStep s.ks) (s.x[ra], s.x[rb]) := by
  induction rounds generalizing s with
  | nil => exact ⟨s, rfl, rfl⟩
  | cons ij rounds ih =>
    obtain ⟨u, hrunL, hLnew, hRold, hkeyL⟩ := execAll_halfRound hab hta htb ij.1 hk
    obtain ⟨v, hrunR, hRnew, hLkept, hkeyR⟩ := execAll_halfRound hab.symm htb hta ij.2 (hkeyL.2.trans hk)
    obtain ⟨hks, hkv⟩ := hkeyL.trans hkeyR
    obtain ⟨t, hrun, ht⟩ := ih (hkv.trans hk)
    have hstep : (v.x[ra], v.x[rb]) = feistelStep s.ks (s.x[ra], s.x[rb]) ij := by
      rw [feistelStep, hLkept, hRnew, hRold, hLnew, hkeyL.1]
    exact ⟨t, (hrunL _).trans ((hrunR _).trans hrun), by rw [ht, hstep, hks, List.foldl_cons]⟩

/-- Settles O22: the mask test names ROUNDK's row, KEYVALID decides between F and NOKEY, and the 32 commands are the loop steps
of encrypt, whose output is the two halves swapped. -/
theorem roundkCommand : Obligations.RoundkCommand := by
  refine ⟨fun w rd ra r hmask hrd hra hr => ?_, illegalOutside_of_mem (row := opcodeTable[6]) (List.getElem_mem _),
    fun rd ra r s hk => ?_, fun rd ra r s hk => endsWith_roundk rd ra r hk, fun ra rb rt s hab hta htb hk => ?_,
    by decide +kernel⟩
  · rw [decode_roundk hmask, rdField, raField, regField_eq_of_bitsAt hrd, regField_eq_of_bitsAt hra,
      rndField_eq_of_bitsAt hr]
  · rw [roundF_components]
    exact wrote_roundk rd ra r hk
  · obtain ⟨t, hrun, ht⟩ := execAll_stepCommands hab hta htb encryptRounds hk
    exact ⟨t, roundByRound_eq_flatMap ra rb rt ▸ hrun, congrArg Prod.swap ht⟩

end Sys2Proof.Machine
end

section
/-! The key schedule in closed form (spec/44_key_schedule.md R190-R193): what a rotation, an iteration, a round and the two builds
do, each said once, and then every bit of every subkey. -/

namespace Sys2Proof.Machine

/-! ### The rotating registers -/

theorem rotateNot_getLsbD (v : BitVec 16) {i : Nat} (hi : i < 16) :
    (rotateNot v).getLsbD i = if i < 15 then v.getLsbD (i + 1) else !v.getLsbD 0 := by
  rw [rotateNot, BitVec.getLsbD_append]
  split
  next h => simp [h, Nat.add_comm]
  next h =>
    obtain rfl : i = 15 := by omega
    simp

/-- The bit that a register gives out after `n` rotations: its bits in turn, complemented once for each full turn of 16. -/
def turnedBit (v : BitVec 16) (n : Nat) : Bool := v.getLsbD (n % 16) ^^ decide (n / 16 % 2 = 1)

theorem turnedBit_add_turn (v : BitVec 16) (n : Nat) : turnedBit v (n + 16) = !turnedBit v n := by
  have hturn : decide ((n + 16) / 16 % 2 = 1) = !decide (n / 16 % 2 = 1) := by
    rw [← decide_not, decide_eq_decide]
    omega
  rw [turnedBit, turnedBit, Nat.add_mod_right, hturn, Bool.xor_not]

/-- After `n` rotations a register holds the next 16 bits that it gives out. -/
theorem rotateNot_iterate_getLsbD (v : BitVec 16) (n : Nat) {i : Nat} (hi : i < 16) :
    (rotateNot^[n] v).getLsbD i = turnedBit v (n + i) := by
  induction n generalizing i with
  | zero => simp [turnedBit, Nat.mod_eq_of_lt hi, Nat.div_eq_of_lt hi]
  | succ n ih =>
    rw [Function.iterate_succ_apply', rotateNot_getLsbD _ hi]
    split
    next h => rw [ih (by omega), Nat.add_right_comm, Nat.add_assoc]
    next h =>
      obtain rfl : i = 15 := by omega
      rw [ih (by decide), ← turnedBit_add_turn]

/-- All four registers rotated once. -/
def rotateAll (kb : RotRegs) : RotRegs := kb.map rotateNot

theorem rotateAll_getElem (kb : RotRegs) (q : Fin 4) : (rotateAll kb)[q] = rotateNot kb[q] :=
  Vector.getElem_map rotateNot q.isLt

theorem rotateAll_iterate (kb : RotRegs) (n : Nat) (q : Fin 4) : (rotateAll^[n] kb)[q] = rotateNot^[n] kb[q] := by
  induction n with
  | zero => rfl
  | succ n ih => rw [Function.iterate_succ_apply', rotateAll_getElem, ih, Function.iterate_succ_apply']

/-! ### One iteration -/

/-- The register that bit `k` of an iteration comes from (R192). -/
def selected (kr k : Nat) : Fin 4 := Fin.ofNat 4 (kr + k)

/-- The four selections of an iteration are the four registers, each once. -/
theorem selected_nodup (kr : Nat) : ([0, 1, 2, 3].map (selected kr)).Nodup := by
  simp only [selected, List.map_cons, List.map_nil, List.nodup_cons, List.mem_cons, List.not_mem_nil, Fin.ext_iff,
    Fin.val_ofNat, List.nodup_nil, or_false, not_false_eq_true, and_true]
  omega

theorem mem_selected (kr : Nat) (q : Fin 4) : q ∈ [0, 1, 2, 3].map (selected kr) := by
  simp only [selected, List.map_cons, List.map_nil, List.mem_cons, List.not_mem_nil, Fin.ext_iff, Fin.val_ofNat]
  omega

/-- The lowest bits of the registers that `ks` selects, shifted into an accumulator one after another. -/
def pushLowBits (kb : RotRegs) (kr : Nat) (ks : List Nat) (acc : Subkey) : Subkey :=
  ks.foldl (fun acc k => acc.shiftConcat (kb[selected kr k].getLsbD 0)) acc

/-- The four bits of an iteration are the accumulator's lowest, the first of them highest. -/
theorem pushLowBits_getLsbD (kb : RotRegs) (kr : Nat) (acc : Subkey) {i : Nat} (hi : i < 20) :
    (pushLowBits kb kr [0, 1, 2, 3] acc).getLsbD i =
      if i < 4 then kb[selected kr (3 - i)].getLsbD 0 else acc.getLsbD (i - 4) := by
  simp only [pushLowBits, List.foldl, BitVec.getLsbD_shiftConcat]
  by_cases h : i < 4
  · interval_cases i <;> rfl
  · grind

/-- One bit of R192's innermost loop. -/
theorem scheduleBit_eq (kr c : Nat) (p : RotRegs × Subkeys) (k : Nat) :
    scheduleBit kr c p k = (p.1.set (selected kr k) (rotateNot p.1[selected kr k]),
      p.2.set (Fin.ofNat 3 c) (p.2[Fin.ofNat 3 c].shiftConcat (p.1[selected kr k].getLsbD 0))) := by
  have hpush (acc : Subkey) (v : BitVec 16) :
      acc <<< 1 ||| (v.extractLsb' 0 1).setWidth 20 = acc.shiftConcat (v.getLsbD 0) := by
    apply BitVec.eq_of_getLsbD_eq
    intro i hi
    cases i <;> simp [BitVec.getLsbD_shiftConcat]
  rw [← hpush]
  rfl

/-- Bits from registers that are all different: each of these rotates, and none has rotated before it gives its bit. -/
theorem foldl_scheduleBit (kr c : Nat) (p : RotRegs × Subkeys) (ks : List Nat) (h : (ks.map (selected kr)).Nodup) :
    (∀ q : Fin 4, (ks.foldl (scheduleBit kr c) p).1[q] =
      if q ∈ ks.map (selected kr) then rotateNot p.1[q] else p.1[q]) ∧
    (ks.foldl (scheduleBit kr c) p).2 = p.2.set (Fin.ofNat 3 c) (pushLowBits p.1 kr ks p.2[Fin.ofNat 3 c]) := by
  induction ks using List.reverseRecOn with
  | nil => simp [pushLowBits]
  | append_singleton ks k ih =>
    rw [List.map_append, List.map_singleton, ← List.concat_eq_append, List.nodup_concat] at h
    obtain ⟨hnew, hks⟩ := h
    obtain ⟨hregs, haccs⟩ := ih hks
    have hk := (hregs (selected kr k)).trans (if_neg hnew)
    rw [List.foldl_concat, scheduleBit_eq, hk, haccs]
    refine ⟨fun q => ?_, by simp [pushLowBits]⟩
    by_cases hq : q = selected kr k
    · simp [hq]
    · have hval : (selected kr k).val ≠ q.val := fun h => hq (Fin.ext h.symm)
      have hkept := Vector.getElem_set_ne (xs := (ks.foldl (scheduleBit kr c) p).1) (x := rotateNot p.1[selected kr k])
        (selected kr k).isLt q.isLt hval
      refine hkept.trans ((hregs q).trans ?_)
      simp [hq]

/-- An iteration rotates every register once (R192). -/
theorem scheduleIteration_regs (kr : Nat) (p : RotRegs × Subkeys) (j : Nat) :
    (scheduleIteration kr p j).1 = rotateAll p.1 := by
  obtain ⟨hregs, -⟩ := foldl_scheduleBit kr (j % 3) p [0, 1, 2, 3] (selected_nodup kr)
  apply Vector.ext
  intro q hq
  have hrotated := (hregs ⟨q, hq⟩).trans (if_pos (mem_selected kr _))
  exact hrotated.trans (rotateAll_getElem p.1 ⟨q, hq⟩).symm

/-- An iteration adds a bit from each register to its own accumulator, and leaves the other two (R192). -/
theorem scheduleIteration_acc (kr : Nat) (p : RotRegs × Subkeys) (j : Nat) (c : Fin 3) :
    (scheduleIteration kr p j).2[c] =
      if j % 3 = c.val then pushLowBits p.1 kr [0, 1, 2, 3] p.2[c] else p.2[c] := by
  obtain ⟨-, haccs⟩ := foldl_scheduleBit kr (j % 3) p [0, 1, 2, 3] (selected_nodup kr)
  have hacc : (Fin.ofNat 3 (j % 3)).val = j % 3 := Nat.mod_mod j 3
  rw [scheduleIteration, haccs, Fin.getElem_fin, Vector.getElem_set]
  simp only [Fin.getElem_fin, hacc]
  split
  next h => simp only [h]
  next => rfl

/-! ### One round -/

/-- The first `j` iterations of a round. -/
def iterations (kb : RotRegs) (kr j : Nat) : RotRegs × Subkeys :=
  (List.range j).foldl (scheduleIteration kr) (kb, #v[0, 0, 0])

theorem iterations_succ (kb : RotRegs) (kr j : Nat) :
    iterations kb kr (j + 1) = scheduleIteration kr (iterations kb kr j) j := by
  rw [iterations, List.range_succ, List.foldl_concat, iterations]

theorem scheduleRound_eq_iterations (kb : RotRegs) (kr : Nat) : scheduleRound kb kr = iterations kb kr 15 := rfl

theorem iterations_regs (kb : RotRegs) (kr j : Nat) : (iterations kb kr j).1 = rotateAll^[j] kb := by
  induction j with
  | zero => rfl
  | succ j ih => rw [iterations_succ, scheduleIteration_regs, ih, Function.iterate_succ_apply']

/-- Accumulator `c` has its turn in `(j + 2 - c) / 3` of the first `j` iterations, and holds their bits, the latest lowest:
bit `k` of turn `m`, which is iteration `3m + c`, stands under the bits that came before it. -/
theorem iterations_getLsbD (kb : RotRegs) (kr : Nat) (c : Fin 3) {j m k i : Nat} (hj : j ≤ 15) (hm : 3 * m + c < j)
    (hk : k < 4) (hi : i + (4 * m + k + 1) = 4 * ((j + 2 - c) / 3)) :
    (iterations kb kr j).2[c].getLsbD i = (rotateAll^[3 * m + c] kb)[selected kr k].getLsbD 0 := by
  induction j generalizing i with
  | zero => omega
  | succ j ih =>
    rw [iterations_succ, scheduleIteration_acc, iterations_regs]
    split
    next hturn =>
      rw [pushLowBits_getLsbD _ _ _ (by omega)]
      by_cases hlast : 3 * m + c = j
      · obtain rfl : k = 3 - i := by omega
        rw [if_pos (by omega), hlast]
      · rw [if_neg (by omega)]
        exact ih (by omega) (by omega) (by omega)
    next hother => exact ih (by omega) (by omega) (by omega)

theorem scheduleRound_regs (kb : RotRegs) (kr : Nat) : (scheduleRound kb kr).1 = rotateAll^[15] kb :=
  iterations_regs kb kr 15

/-- The bits of a round's subkeys, the first bit extracted for a subkey at bit 19 (R194). -/
theorem scheduleRound_getLsbD (kb : RotRegs) (kr : Nat) (c : Fin 3) {m k : Nat} (hm : m < 5) (hk : k < 4) :
    (scheduleRound kb kr).2[c].getLsbD (19 - (4 * m + k)) = (rotateAll^[3 * m + c] kb)[selected kr k].getLsbD 0 := by
  rw [scheduleRound_eq_iterations]
  exact iterations_getLsbD kb kr c le_rfl (by omega) hk (by omega)

/-! ### All rounds -/

/-- Two builds, the registers carried over, are one build of both tables. -/
theorem buildHalf_append (kb : RotRegs) (ks : Schedule) (rot rot' : List (Fin 4)) (n : Nat) :
    buildHalf kb ks (rot ++ rot') n =
      buildHalf (buildHalf kb ks rot n).1 (buildHalf kb ks rot n).2 rot' (n + rot.length) := by
  induction rot generalizing kb ks n with
  | nil => rfl
  | cons kr rot ih => rw [List.cons_append, buildHalf, ih, buildHalf, List.length_cons, Nat.add_assoc, Nat.add_comm 1]

/-- A build leaves the rounds before its first. -/
theorem buildHalf_before (kb : RotRegs) (ks : Schedule) (rot : List (Fin 4)) {n r : Nat} (hr : r < 16) (h : r < n) :
    (buildHalf kb ks rot n).2[r] = ks[r] := by
  induction rot generalizing kb ks n with
  | nil => rfl
  | cons kr rot ih => rw [buildHalf, ih _ _ (by omega), Vector.getElem_setIfInBounds_ne _ (by omega)]

/-- A build's round after `i` others comes from the registers rotated 15 times for each of these. -/
theorem buildHalf_round (kb : RotRegs) (ks : Schedule) {rot : List (Fin 4)} {n i r : Nat} {kr : Fin 4}
    (hkr : rot[i]? = some kr) (hr : r < 16) (hn : n + i = r) :
    (buildHalf kb ks rot n).2[r] = (scheduleRound (rotateAll^[15 * i] kb) kr).2 := by
  induction rot generalizing kb ks n i with
  | nil => cases hkr
  | cons kr' rot ih =>
    rw [buildHalf]
    cases i with
    | zero =>
      obtain rfl : kr' = kr := by simpa using hkr
      obtain rfl : n = r := hn
      rw [buildHalf_before _ _ _ _ (by omega), Vector.getElem_setIfInBounds_self]
      rfl
    | succ i =>
      rw [ih _ _ (by simpa using hkr) (by omega), scheduleRound_regs, ← Function.iterate_add_apply, Nat.mul_succ]

/-- R193: the registers are loaded once, so a round comes from the loaded registers rotated 15 times for each round before it. -/
theorem keySchedule_round (s : Seed) (r : Fin 16) {kr : Fin 4} (hkr : (keyrotLow ++ keyrotHigh)[r.val]? = some kr) :
    (keySchedule s)[r] = (scheduleRound (rotateAll^[15 * r.val] (loadKb s)) kr).2 := by
  have hone : keySchedule s =
      (buildHalf (loadKb s) (Vector.replicate 16 #v[0, 0, 0]) (keyrotLow ++ keyrotHigh) 0).2 := by
    rw [buildHalf_append]
    rfl
  rw [hone]
  exact buildHalf_round _ _ hkr r.isLt (Nat.zero_add _)

/-! ### The closed form -/

/-- R58, R191: register `q` is loaded with the 16 bits of the seed from bit `16q` up. -/
theorem loadKb_seedOf (hi lo : Word) (q : Fin 4) :
    (loadKb (seedOf hi lo))[q] = (hi ++ lo : BitVec 64).extractLsb' (16 * q.val) 16 := by
  have hhigh (w : Word) : wordByte w 0 ++ wordByte w 1 = w.extractLsb' 16 16 :=
    BitVec.extractLsb'_append_extractLsb'_eq_extractLsb' rfl
  have hlow (w : Word) : wordByte w 2 ++ wordByte w 3 = w.extractLsb' 0 16 :=
    BitVec.extractLsb'_append_extractLsb'_eq_extractLsb' rfl
  match q with
  | 0 => exact (hlow lo).trans (BitVec.extractLsb'_append_eq_of_add_le (by decide)).symm
  | 1 => exact (hhigh lo).trans (BitVec.extractLsb'_append_eq_of_add_le (by decide)).symm
  | 2 => exact (hlow hi).trans (BitVec.extractLsb'_append_eq_of_le (xlo := lo) (start := 32) (by decide)).symm
  | 3 => exact (hhigh hi).trans (BitVec.extractLsb'_append_eq_of_le (xlo := lo) (start := 48) (by decide)).symm

/-- Settles O23: the bit is the lowest of its register after the `15r` rotations of the rounds before and the `3m + c` of the
iterations before, and a register's rotations give out its loaded bits in turn. -/
theorem keyScheduleClosedForm : Obligations.KeyScheduleClosedForm := by
  unfold Obligations.KeyScheduleClosedForm
  intro keyrot
  have htable (r : Fin 16) :
      ∃ kr : Fin 4, (keyrotLow ++ keyrotHigh)[r.val]? = some kr ∧ kr.val = keyrot.getD r 0 := by
    decide +revert
  intro hi lo r c m k n q hm hk hn hq
  obtain ⟨kr, hkr, hval⟩ := htable r
  have hsel : (selected kr k).val = q := by rw [selected, Fin.val_ofNat, hval, hq]
  have hrotations : 3 * m + c + 15 * r.val = n := by omega
  have hbit : n % 16 < 16 := Nat.mod_lt n (by decide)
  rw [keySchedule_round _ r hkr, scheduleRound_getLsbD _ _ _ hm hk, ← Function.iterate_add_apply, hrotations,
    rotateAll_iterate, rotateNot_iterate_getLsbD _ _ (by decide), turnedBit, Nat.add_zero, loadKb_seedOf,
    BitVec.getLsbD_extractLsb', decide_eq_true hbit, Bool.true_and, hsel]

end Sys2Proof.Machine
end

section
/-! The commands KEYSET and KSRD (spec/44_key_schedule.md R196, R197). -/

namespace Sys2Proof.Machine

/-! ### KEYSET -/

theorem decode_keyset {w : Word} (h : w &&& 0xFFFFFE07 = 0x10000000) :
    decode w = .ok (.keyset (raField w) (rbField w)) :=
  decode_of_masked (row := opcodeTable[8]) h rfl rfl

/-- R10: the bytes of a word, the first the most significant. -/
theorem wordByte_append (b0 b1 b2 b3 : Byte) :
    wordByte (b0 ++ b1 ++ b2 ++ b3) 0 = b0 ∧ wordByte (b0 ++ b1 ++ b2 ++ b3) 1 = b1 ∧
      wordByte (b0 ++ b1 ++ b2 ++ b3) 2 = b2 ∧ wordByte (b0 ++ b1 ++ b2 ++ b3) 3 = b3 := by
  have habove {n : Nat} (u : BitVec n) (b : Byte) (lo : Nat) :
      (u ++ b).extractLsb' (8 + lo) 8 = u.extractLsb' lo 8 := by
    rw [BitVec.extractLsb'_append_eq_of_le (Nat.le_add_right 8 lo), Nat.add_sub_cancel_left]
  have hlast {n : Nat} (u : BitVec n) (b : Byte) : (u ++ b).extractLsb' 0 8 = b := BitVec.extractLsb'_append_eq_right
  refine ⟨?_, ?_, ?_, hlast (b0 ++ b1 ++ b2) b3⟩
  · exact (habove _ b3 16).trans ((habove _ b2 8).trans ((habove b0 b1 0).trans BitVec.extractLsb'_eq_self))
  · exact (habove _ b3 8).trans ((habove _ b2 0).trans (hlast b0 b1))
  · exact (habove _ b3 0).trans (hlast (b0 ++ b1) b2)

/-- R58: the seed whose bytes two registers hold. -/
theorem seedOf_append (s0 s1 s2 s3 s4 s5 s6 s7 : Byte) :
    seedOf (s0 ++ s1 ++ s2 ++ s3) (s4 ++ s5 ++ s6 ++ s7) = #v[s0, s1, s2, s3, s4, s5, s6, s7] := by
  obtain ⟨h0, h1, h2, h3⟩ := wordByte_append s0 s1 s2 s3
  obtain ⟨h4, h5, h6, h7⟩ := wordByte_append s4 s5 s6 s7
  simp only [seedOf, h0, h1, h2, h3, h4, h5, h6, h7]

/-- Settles O25: the mask test names KEYSET's row, the two registers hold the seed's bytes, and nothing but the schedule, KEYVALID
and the completion update is written. -/
theorem keysetCommand : Obligations.KeysetCommand := by
  refine ⟨fun w ra rb hmask hra hrb => ?_, illegalOutside_of_mem (row := opcodeTable[8]) (List.getElem_mem _),
    fun ra rb s s0 s1 s2 s3 s4 s5 s6 s7 hhi hlo => ?_, by decide +kernel, by decide +kernel, by decide +kernel⟩
  · rw [decode_keyset hmask, raField, rbField, regField_eq_of_bitsAt hra, regField_eq_of_bitsAt hrb]
  · rw [← seedOf_append, ← hhi, ← hlo]
    exact ⟨_, rfl, rfl, rfl, rfl, completed_finish (s.writeKs _) .ok⟩

/-! ### KSRD -/

/-- The mask test and a SEL that is a subkey's number name KSRD. -/
theorem decode_ksrd {w : Word} {j : Fin 3} (h : w &&& 0xFF03FFF8 = 0x11000000) (hj : j.val = bitsAt w 18 2) :
    decode w = .ok (.ksrd (rdField w) (rndField w) j) :=
  (decode_of_masked (row := opcodeTable[9]) h rfl rfl).trans
    (ksrdOperands_ok_iff.mpr ⟨j, (selField_val w).trans hj.symm, rfl⟩)

/-- R194: a subkey in a register has bits 31:20 zero. -/
theorem subkey_zext (k : Subkey) : k.setWidth 32 = 0#12 ++ k := BitVec.setWidth_eq_append (by decide)

theorem wrote_ksrd (rd : Reg) (r : Fin 16) (j : Fin 3) {s : State} (hk : s.keyValid = true) :
    Wrote rd (0#12 ++ s.ks[r][j]) (exec (.ksrd rd r j) s) s := by
  show Wrote _ _ (withKey s _) s
  rw [withKey_set hk, ← subkey_zext]
  exact wrote_writeBack rd _ s

theorem endsWith_ksrd (rd : Reg) (r : Fin 16) (j : Fin 3) {s : State} (hk : s.keyValid = false) :
    EndsWith 2 (exec (.ksrd rd r j) s) s := by
  show EndsWith _ (withKey s _) s
  rw [withKey_unset hk]
  exact endsWith_finish s .nokey

/-- Settles O26: the mask test and SEL decide between KSRD and ILLEGAL, and KEYVALID between the subkey and NOKEY. -/
theorem ksrdCommand : Obligations.KsrdCommand := by
  have hillegal : IllegalOutside 0x11 0xFF03FFF8 0x11000000 :=
    illegalOutside_of_mem (row := opcodeTable[9]) (List.getElem_mem _)
  refine ⟨fun w rd r j hmask hrd hr hj => ?_, hillegal, fun w s hop hsel hp => ?_,
    fun rd r j s hk => wrote_ksrd rd r j hk, fun rd r j s hk => endsWith_ksrd rd r j hk, by decide +kernel⟩
  · rw [decode_ksrd hmask hj, rdField, regField_eq_of_bitsAt hrd, rndField_eq_of_bitsAt hr]
  · by_cases hmask : w &&& 0xFF03FFF8 = 0x11000000
    · exact endsWith_illegal_of_decode hp (decode_ksrd_of_sel_three hmask hsel)
    · exact hillegal w s hop hmask hp

end Sys2Proof.Machine
end

section
/-! The block cipher (spec/45_block_cipher.md R220, R221): the loop of encrypt and decrypt is its recurrence, and a loop step is
undone by the step with its two rounds exchanged, so the reversed loop undoes the loop. -/

namespace Sys2Proof.Machine

/-! ### The recurrences -/

/-- Halves that follow the loop step by step are the halves of its output, swapped. -/
theorem feistel_of_recurrence {ks : Schedule} {rounds : List (Fin 16 × Fin 16)} {l r : Nat → Word}
    (h : ∀ (k : Nat) (hk : k < rounds.length), feistelStep ks (l k, r k) rounds[k] = (l (k + 1), r (k + 1))) :
    feistel rounds ks (l 0) (r 0) = (r rounds.length, l rounds.length) := by
  have hloop : rounds.foldl (feistelStep ks) (l 0, r 0) = (l rounds.length, r rounds.length) := by
    induction rounds using List.reverseRecOn with
    | nil => rfl
    | append_singleton rounds ij ih =>
      have hlast := h rounds.length (by simp)
      rw [List.getElem_concat_length rfl] at hlast
      rw [List.foldl_concat, List.length_append, List.length_singleton, ← hlast, ih fun k hk => ?_]
      rw [← h k (by simpa using Nat.lt_succ_of_lt hk), List.getElem_append_left hk]
  rw [feistel, hloop, Prod.swap_prod_mk]

/-- A loop step from the two equations of R220 and R221. -/
theorem feistelStep_eq {ks : Schedule} {l r l' r' : Word} {ij : Fin 16 × Fin 16} (hl : l' = l ^^^ roundF r ks[ij.1])
    (hr : r' = r ^^^ roundF l' ks[ij.2]) : feistelStep ks (l, r) ij = (l', r') := by
  rw [feistelStep, ← hl, ← hr]

theorem encryptRounds_getElem {k : Nat} (hk : k < 8) :
    encryptRounds[k]'hk = (⟨2 * k, by omega⟩, ⟨2 * k + 1, by omega⟩) := by
  decide +revert

theorem decryptRounds_getElem {k : Nat} (hk : k < 8) :
    decryptRounds[k]'hk = (⟨15 - 2 * k, by omega⟩, ⟨14 - 2 * k, by omega⟩) := by
  decide +revert

/-- Settles O27: the rounds of encrypt's step k are 2k and 2k + 1. -/
theorem encryptRecurrence : Obligations.EncryptRecurrence := by
  intro ks l r h
  refine feistel_of_recurrence (rounds := encryptRounds) fun k hk => ?_
  obtain ⟨hl, hr⟩ := h ⟨k, hk⟩
  rw [encryptRounds_getElem hk]
  exact feistelStep_eq hl hr

/-- Settles O28: the rounds of decrypt's step k are 15 − 2k and 14 − 2k. -/
theorem decryptRecurrence : Obligations.DecryptRecurrence := by
  intro ks l r h
  refine feistel_of_recurrence (rounds := decryptRounds) fun k hk => ?_
  obtain ⟨hl, hr⟩ := h ⟨k, hk⟩
  rw [decryptRounds_getElem hk]
  exact feistelStep_eq hl hr

/-! ### Decryption -/

/-- On the exchanged halves, the step with its rounds exchanged takes away the two values of F that the step added. -/
theorem feistelStep_swap_feistelStep (ks : Schedule) (p : Word × Word) (ij : Fin 16 × Fin 16) :
    feistelStep ks (feistelStep ks p ij).swap ij.swap = p.swap := by
  simp [feistelStep, Prod.swap]

/-- The rounds that undo `rounds`: the steps in reverse order, and the two rounds of each exchanged. -/
def undoRounds (rounds : List (Fin 16 × Fin 16)) : List (Fin 16 × Fin 16) := rounds.reverse.map Prod.swap

theorem undoRounds_encryptRounds : undoRounds encryptRounds = decryptRounds := rfl

theorem undoRounds_decryptRounds : undoRounds decryptRounds = encryptRounds := rfl

theorem foldl_feistelStep_undoRounds (ks : Schedule) (rounds : List (Fin 16 × Fin 16)) (p : Word × Word) :
    (undoRounds rounds).foldl (feistelStep ks) (rounds.foldl (feistelStep ks) p).swap = p.swap := by
  induction rounds generalizing p with
  | nil => rfl
  | cons ij rounds ih =>
    have hundo : undoRounds (ij :: rounds) = undoRounds rounds ++ [ij.swap] := by simp [undoRounds]
    rw [hundo, List.foldl_concat, List.foldl_cons, ih, feistelStep_swap_feistelStep]

/-- The output of the loop is swapped, which is what the reversed loop has to start from. -/
theorem feistel_undoRounds (ks : Schedule) (rounds : List (Fin 16 × Fin 16)) (l r : Word) :
    feistel (undoRounds rounds) ks (feistel rounds ks l r).1 (feistel rounds ks l r).2 = (l, r) :=
  congrArg Prod.swap (foldl_feistelStep_undoRounds ks rounds (l, r))

/-- Settles O29: decrypt's rounds undo encrypt's, and encrypt's undo decrypt's. -/
theorem decryptInvertsEncrypt : Obligations.DecryptInvertsEncrypt := by
  intro ks l r
  have hdec := feistel_undoRounds ks encryptRounds l r
  have henc := feistel_undoRounds ks decryptRounds l r
  rw [undoRounds_encryptRounds] at hdec
  rw [undoRounds_decryptRounds] at henc
  exact ⟨hdec, henc⟩

end Sys2Proof.Machine
end

section
/-! The commands ENC and DEC (spec/45_block_cipher.md R223, R224): both check the key and write a block back, so what they share is
said once, of any block. -/

namespace Sys2Proof.Machine

/-! ### The words -/

theorem blockOperands_of_bitsAt {build : Reg → Reg → Instr} {w : Word} {ra rb : Reg} (hra : ra.val = bitsAt w 3 3)
    (hrb : rb.val = bitsAt w 6 3) (hab : ra ≠ rb) : blockOperands build w = .ok (build ra rb) := by
  obtain rfl : raField w = ra := regField_eq_of_bitsAt hra
  obtain rfl : rbField w = rb := regField_eq_of_bitsAt hrb
  exact blockOperands_ok_iff.mpr ⟨hab, rfl⟩

/-- RA = RB is ILLEGAL for every word with ENC's or DEC's OP: by R87 where the mask test passes, and by R85 where it fails. -/
theorem endsWith_illegal_of_sameRegister {op : Nat} {pattern w : Word} {s : State}
    (hpattern : pattern = 0x20000000 ∨ pattern = 0x21000000) (houtside : IllegalOutside op 0xFFFFFE07 pattern)
    (hop : bitsAt w 24 8 = op) (hreg : bitsAt w 3 3 = bitsAt w 6 3) (hp : s.pend = .command w) :
    EndsWith 1 (engineStep s) s := by
  obtain ⟨-, hblock⟩ := valueConstraintsAreIllegal
  by_cases hmask : w &&& 0xFFFFFE07 = pattern
  · exact hblock w s hp (by rwa [hmask]) hreg
  · exact houtside w s hop hmask hp

/-! ### The results -/

/-- R57: the second half's write leaves the first half's register, since the two registers differ. -/
theorem wroteBlock_writeBlock {ra rb : Reg} (hab : ra ≠ rb) (b : Word × Word) (s : State) :
    WroteBlock ra rb b (writeBlock ra rb b s) s := by
  refine ⟨_, rfl, ?_, State.writeReg_same _ rb b.2, fun r hr => ?_, ⟨rfl, rfl⟩,
    completed_finish ((s.writeReg ra b.1).writeReg rb b.2) .ok⟩
  · exact (State.writeReg_other _ b.2 hab).trans (State.writeReg_same s ra b.1)
  · obtain ⟨hra, hrb⟩ : r ≠ ra ∧ r ≠ rb := by simpa using hr
    exact (State.writeReg_other _ b.2 hrb).trans (State.writeReg_other s b.1 hra)

theorem wroteBlock_checked {ra rb : Reg} {s : State} (hab : ra ≠ rb) (hk : s.keyValid = true) (b : Word × Word) :
    WroteBlock ra rb b (withDistinct ra rb s (withKey s (writeBlock ra rb b s))) s := by
  rw [withDistinct_ne hab, withKey_set hk]
  exact wroteBlock_writeBlock hab b s

theorem endsWith_nokey_checked {ra rb : Reg} {s : State} (hab : ra ≠ rb) (hk : s.keyValid = false) (k : Result) :
    EndsWith 2 (withDistinct ra rb s (withKey s k)) s := by
  rw [withDistinct_ne hab, withKey_unset hk]
  exact endsWith_finish s .nokey

theorem wroteBlock_enc {ra rb : Reg} {s : State} (hab : ra ≠ rb) (hk : s.keyValid = true) :
    WroteBlock ra rb (encrypt s.ks s.x[ra] s.x[rb]) (exec (.enc ra rb) s) s := wroteBlock_checked hab hk _

theorem wroteBlock_dec {ra rb : Reg} {s : State} (hab : ra ≠ rb) (hk : s.keyValid = true) :
    WroteBlock ra rb (decrypt s.ks s.x[ra] s.x[rb]) (exec (.dec ra rb) s) s := wroteBlock_checked hab hk _

/-- R224: ENC then DEC writes back the halves that stood in the two registers, and no other register. -/
theorem exec_enc_dec_restores {ra rb : Reg} {s : State} (hab : ra ≠ rb) (hk : s.keyValid = true) :
    ∃ t u, exec (.enc ra rb) s = .next t ∧ exec (.dec ra rb) t = .next u ∧ u.x = s.x := by
  obtain ⟨t, ht, htL, htR, htkept, ⟨htks, htkv⟩, -⟩ := wroteBlock_enc hab hk
  obtain ⟨u, hu, huL, huR, hukept, -, -⟩ := wroteBlock_dec hab (htkv.trans hk)
  obtain ⟨hinv, -⟩ := decryptInvertsEncrypt s.ks s.x[ra] s.x[rb]
  rw [htL, htR, htks, hinv] at huL huR
  have hreg (r : Reg) : u.x[r] = s.x[r] := by
    by_cases hr : r ∈ [ra, rb]
    · obtain rfl | rfl : r = ra ∨ r = rb := by simpa using hr
      · exact huL
      · exact huR
    · exact (hukept r hr).trans (htkept r hr)
  exact ⟨t, u, ht, hu, Vector.ext fun i hi => hreg ⟨i, hi⟩⟩

/-! ### The commands -/

/-- Settles O30: the mask test and the two registers decide between ENC and ILLEGAL, and KEYVALID between the block and NOKEY. -/
theorem encCommand : Obligations.EncCommand := by
  have houtside : IllegalOutside 0x20 0xFFFFFE07 0x20000000 :=
    illegalOutside_of_mem (row := opcodeTable[10]) (List.getElem_mem _)
  exact ⟨fun w ra rb hmask hra hrb hab =>
      (decode_of_masked (row := opcodeTable[10]) hmask rfl rfl).trans (blockOperands_of_bitsAt hra hrb hab),
    houtside, fun w s hop hreg hp => endsWith_illegal_of_sameRegister (.inl rfl) houtside hop hreg hp,
    fun ra rb s hab hk => wroteBlock_enc hab hk, fun ra rb s hab hk => endsWith_nokey_checked hab hk _,
    by decide +kernel⟩

/-- Settles O31: as for ENC, and that DEC undoes it is O29 on the halves that ENC wrote. -/
theorem decCommand : Obligations.DecCommand := by
  have houtside : IllegalOutside 0x21 0xFFFFFE07 0x21000000 :=
    illegalOutside_of_mem (row := opcodeTable[11]) (List.getElem_mem _)
  exact ⟨fun w ra rb hmask hra hrb hab =>
      (decode_of_masked (row := opcodeTable[11]) hmask rfl rfl).trans (blockOperands_of_bitsAt hra hrb hab),
    houtside, fun w s hop hreg hp => endsWith_illegal_of_sameRegister (.inr rfl) houtside hop hreg hp,
    fun ra rb s hab hk => wroteBlock_dec hab hk, fun ra rb s hab hk => endsWith_nokey_checked hab hk _,
    fun ra rb s hab hk => exec_enc_dec_restores hab hk, by decide +kernel⟩

end Sys2Proof.Machine
end

section
/-! The commands NOP and XOR (spec/46_utility.md R250, R251). -/

namespace Sys2Proof.Machine

/-! ### NOP -/

theorem decode_nop : decode 0x00000000 = .ok .nop := decode_of_masked (row := opcodeTable[0]) rfl rfl rfl

/-- NOP's whole effect is the completion update with code OK. -/
theorem exec_nop (s : State) : exec .nop s = .next (s.finish .ok) := complete_eq s

/-- R24, R262: after a command that succeeds, STATUS holds EFLAG and KEYVALID as they were, and ERR and BUSY are 0. -/
theorem status_finish_ok_toNat (s : State) : (s.finish .ok).status.toNat = 4 * s.eflag.toNat + 2 * s.keyValid.toNat := by
  obtain ⟨herr, hflag, hbusy⟩ := s.finish_next .ok
  rw [State.status_toNat, herr, hflag, hbusy, State.finish_keyValid]
  simp [Code.bits]

/-- STATUS 0x106 has EFLAG and KEYVALID set, and a success keeps these two and nothing else of it. -/
theorem status_finish_ok_of_illegal {s : State} (h : s.status = 0x00000106) : (s.finish .ok).status = 0x00000006 := by
  have hsum : 256 * s.err.toNat + 4 * s.eflag.toNat + 2 * s.keyValid.toNat + s.busy.toNat = 0x106 :=
    s.status_toNat.symm.trans (congrArg BitVec.toNat h)
  have hflag := s.eflag.toNat_lt
  have hkey := s.keyValid.toNat_lt
  have hbusy := s.busy.toNat_lt
  have hkept : 4 * s.eflag.toNat + 2 * s.keyValid.toNat = 6 := by omega
  exact BitVec.eq_of_toNat_eq ((status_finish_ok_toNat s).trans hkept)

/-- Settles O32: the mask leaves NOP one word, and its effect is the completion update, which sets EFLAG for an error only. -/
theorem nopCommand : Obligations.NopCommand := by
  refine ⟨decode_nop, illegalOutside_of_mem (row := opcodeTable[0]) (List.getElem_mem _), fun s => ?_, fun s h => ?_⟩
  · exact ⟨_, exec_nop s, rfl, ⟨rfl, rfl⟩, completed_finish s .ok, Bool.or_false s.eflag⟩
  · exact ⟨_, exec_nop _, status_finish_ok_of_illegal (s := s) h⟩

/-! ### XOR -/

theorem decode_xor {w : Word} (h : w &&& 0xFFFFFE00 = 0x07000000) :
    decode w = .ok (.xor (rdField w) (raField w) (rbField w)) :=
  decode_of_masked (row := opcodeTable[7]) h rfl rfl

/-- R92: XOR of a register with itself is CLR. -/
theorem wrote_xor_self (rd ra : Reg) (s : State) : Wrote rd 0 (exec (.xor rd ra ra) s) s := by
  have h := wrote_xor rd ra ra s
  rwa [BitVec.xor_self] at h

/-- Settles O33: the mask test names XOR's row, and every operand is written, 0 where the two sources are one register. -/
theorem xorCommand : Obligations.XorCommand := by
  refine ⟨fun w rd ra rb hmask hrd hra hrb => ?_, illegalOutside_of_mem (row := opcodeTable[7]) (List.getElem_mem _),
    wrote_xor, wrote_xor_self, by decide, decode_xor (by decide), by decide⟩
  rw [decode_xor hmask, rdField, raField, rbField, regField_eq_of_bitsAt hrd, regField_eq_of_bitsAt hra,
    regField_eq_of_bitsAt hrb]

end Sys2Proof.Machine
end

section
/-! How commands end (spec/60_exceptions.md R260-R263): the completion update of every command, which words are ILLEGAL, and when
the others end with NOKEY, OPERAND or OK. -/

namespace Sys2Proof.Machine

/-! ### The completion update -/

/-- A command completes with OK, or it makes the completion update and writes nothing else (R262). -/
theorem Ended.completed_ok_or_finish {i : Instr} {s t : State} (h : Ended i s t) :
    Completed 0 s t ∨ ∃ c : Code, t = s.finish c := by
  cases h with
  | failed c _ => exact .inr ⟨c, rfl⟩
  | unwritten => exact .inl (completed_finish s .ok)
  | written rd v => exact .inl (completed_finish (s.writeReg rd v) .ok)
  | block ra rb b => exact .inl (completed_finish ((s.writeReg ra b.1).writeReg rb b.2) .ok)
  | keyed ra rb _ => exact .inl (completed_finish (s.writeKs _) .ok)

/-- Every word in PEND ends in this way: a refused word is ILLEGAL, which writes nothing. -/
theorem engineStep_completed_ok_or_finish {s : State} {w : Word} (hp : s.pend = .command w) :
    ∃ t, engineStep s = .next t ∧ (Completed 0 s t ∨ ∃ c : Code, t = s.finish c) := by
  cases hd : decode w with
  | ok i =>
    obtain ⟨t, ht, hend⟩ := exec_ended i s
    exact ⟨t, (engineStep_of_decode hp hd).trans ht, hend.completed_ok_or_finish⟩
  | error e => exact ⟨s.finish .illegal, by simp only [engineStep, hp, runWord, hd, raiseError_eq], .inr ⟨.illegal, rfl⟩⟩

/-- Settles O34: a command that completes with OK has code 0, and one that does not has made the completion update alone. -/
theorem everyCommandEndsWithOneCode : Obligations.EveryCommandEndsWithOneCode := by
  intro s w hp
  obtain ⟨t, ht, hok | ⟨c, rfl⟩⟩ := engineStep_completed_ok_or_finish hp
  · have ⟨herr, _⟩ := hok
    exact ⟨t, ht, herr ▸ Code.bits_le .ok, herr ▸ hok, fun hne => absurd herr hne⟩
  · exact ⟨_, ht, c.bits_le, completed_finish s c, fun _ => ⟨rfl, rfl, rfl⟩⟩

/-! ### Which words decode -/

/-- An OP that is not undefined has its row. -/
theorem exists_row_of_not_undefinedOp {w : Word} (h : ¬UndefinedOp w) : ∃ row ∈ opcodeTable, opField w = row.op := by
  simp only [UndefinedOp, not_forall, not_not] at h
  obtain ⟨entry, hentry, hop⟩ := h
  obtain ⟨row, hmem, rfl⟩ := List.mem_map.mp (maskTable_eq ▸ hentry)
  exact ⟨row, hmem, bitsAt_op_eq_iff.mp hop⟩

/-- A word is its OP and the 24 bits below it. -/
theorem word_eq_of_opField {v u : Word} (hop : opField v = opField u) (hrest : v &&& 0x00FFFFFF = u &&& 0x00FFFFFF) :
    v = u := by
  have hlow (x : Word) : (x &&& 0x00FFFFFF).toNat = x.toNat % 2 ^ 24 := Nat.and_two_pow_sub_one_eq_mod x.toNat 24
  have hhigh := congrArg BitVec.toNat hop
  have hmod := congrArg BitVec.toNat hrest
  rw [opField_toNat, opField_toNat] at hhigh
  rw [hlow, hlow] at hmod
  have hv := v.isLt
  have hu := u.isLt
  exact BitVec.eq_of_toNat_eq (by omega)

/-- R85: a word with a row's OP and no unused bit set passes the row's mask test. -/
theorem masked_of_not_nonzeroUnused {w : Word} {row : Row} (hmem : row ∈ opcodeTable) (hop : opField w = row.op)
    (h : ¬NonzeroUnused w) : w &&& row.mask = row.pattern := by
  obtain ⟨hmaskOp, hpatternRest⟩ := opcodeTable_masks row hmem
  obtain ⟨-, hpatternOp⟩ := opcodeTable_patterns row hmem
  have hmaskedOp : opField w = opField (w &&& row.mask) := opField_of_masked rfl hmaskOp
  have hrest : w &&& row.mask &&& 0x00FFFFFF = 0 := by
    by_contra hbit
    exact h ⟨_, maskTable_eq ▸ List.mem_map_of_mem hmem, bitsAt_op_eq_iff.mpr hop, hbit⟩
  exact word_eq_of_opField (by rw [← hmaskedOp, hop, hpatternOp]) (by rw [hrest, hpatternRest])

theorem exists_ksrdOperands_ok_iff {w : Word} : (∃ i, ksrdOperands w = .ok i) ↔ bitsAt w 18 2 ≠ 3 := by
  have hsel : (selField w).val = bitsAt w 18 2 := selField_val w
  simp only [ksrdOperands_ok_iff, hsel]
  constructor
  · rintro ⟨_, j, hj, -⟩
    omega
  · intro hne
    exact ⟨_, ⟨bitsAt w 18 2, by omega⟩, rfl, rfl⟩

theorem exists_blockOperands_ok_iff {build : Reg → Reg → Instr} {w : Word} :
    (∃ i, blockOperands build w = .ok i) ↔ bitsAt w 3 3 ≠ bitsAt w 6 3 := by
  have hra : (raField w).val = bitsAt w 3 3 := regField_val w 3
  have hrb : (rbField w).val = bitsAt w 6 3 := regField_val w 6
  simp only [blockOperands_ok_iff, ← hra, ← hrb, ne_eq, Fin.val_inj, exists_and_left, exists_eq, and_true]

/-- The fields of a word with a row's OP name a command, unless they break R87. -/
def OperandsUnlessBadValue (row : Row) : Prop :=
  ∀ w : Word, bitsAt w 24 8 = row.op.toNat → ((∃ i, row.operands w = .ok i) ↔ ¬BadValue w)

/-- R87 constrains the rows of KSRD, ENC and DEC, and no other. -/
theorem opcodeTable_operands : ∀ row ∈ opcodeTable, OperandsUnlessBadValue row := by
  simp only [opcodeTable, List.forall_mem_cons, List.not_mem_nil, false_imp_iff, implies_true, and_true]
  refine ⟨?nop, ?gfmul, ?gfpow7, ?perm32, ?sbox, ?roundf, ?roundk, ?xor, ?keyset, ?ksrd, ?enc, ?dec⟩ <;>
    intro w hop <;> simp only [BadValue, hop]
  case ksrd => simpa using exists_ksrdOperands_ok_iff
  case enc | dec => simpa using exists_blockOperands_ok_iff
  all_goals simp

/-- R85, R86, R87: the words that decode are those without a cause of ILLEGAL. -/
theorem exists_decode_ok_iff {w : Word} : (∃ i, decode w = .ok i) ↔ ¬IllegalWord w := by
  by_cases hundef : UndefinedOp w
  · simp [IllegalWord, hundef, decode_of_undefinedOp hundef]
  by_cases hunused : NonzeroUnused w
  · simp [IllegalWord, hunused, decode_of_nonzeroUnused hunused]
  obtain ⟨row, hmem, hop⟩ := exists_row_of_not_undefinedOp hundef
  have hdecode : decode w = row.operands w := by
    simp only [decode, rowOf_of_mem hmem hop, if_pos (masked_of_not_nonzeroUnused hmem hop hunused)]
  have hoperands := opcodeTable_operands row hmem w (bitsAt_op_eq_iff.mpr hop)
  simpa [IllegalWord, hundef, hunused, hdecode] using hoperands

/-! ### How a decoded command ends -/

/-- R263: the key check comes first in the commands that read KS, after the decoder's check of ENC's and DEC's registers. -/
theorem endsWith_nokey {i : Instr} {s : State} (hwf : i.WellFormed) (hreads : readsKs i = true) (hk : s.keyValid = false) :
    EndsWith 2 (exec i s) s := by
  cases i with
  | roundk rd ra r => exact endsWith_roundk rd ra r hk
  | ksrd rd r j => exact endsWith_ksrd rd r j hk
  | enc ra rb | dec ra rb => exact endsWith_nokey_checked (of_decide_eq_true hwf) hk _
  | _ => cases hreads

/-- R261: a source register outside the command's domain. -/
theorem endsWith_operand {i : Instr} {s : State} (hdom : OutOfDomain s i) : EndsWith 3 (exec i s) s := by
  cases i with
  | gfmul => exact endsWith_writeBackChecked s (gfMulWord_none hdom)
  | gfpow7 => exact endsWith_writeBackChecked s (gfPow7Word_none hdom)
  | sbox _ _ t => exact endsWith_writeBackChecked s (sboxWord_none t hdom)
  | roundf => exact endsWith_writeBackChecked s (roundFWord_none hdom _)
  | _ => cases hdom

theorem Wrote.completed {rd : Reg} {v : Word} {r : Result} {s : State} (h : Wrote rd v r s) :
    ∃ t, r = .next t ∧ Completed 0 s t := by
  obtain ⟨t, ht, -, -, -, hc⟩ := h
  exact ⟨t, ht, hc⟩

theorem WroteBlock.completed {ra rb : Reg} {b : Word × Word} {r : Result} {s : State} (h : WroteBlock ra rb b r s) :
    ∃ t, r = .next t ∧ Completed 0 s t := by
  obtain ⟨t, ht, -, -, -, -, hc⟩ := h
  exact ⟨t, ht, hc⟩

/-- R261: with a key where it reads KS, and its sources in its domain, a command completes with OK. -/
theorem exec_completed {i : Instr} {s : State} (hwf : i.WellFormed) (hkey : readsKs i = true → s.keyValid = true)
    (hdom : ¬OutOfDomain s i) : ∃ t, exec i s = .next t ∧ Completed 0 s t := by
  simp only [OutOfDomain] at hdom
  cases i with
  | nop => exact ⟨_, exec_nop s, completed_finish s .ok⟩
  | gfmul rd ra rb rc =>
    simp only [not_or, BitVec.not_lt] at hdom
    obtain ⟨ha, hb, hm, hm'⟩ := hdom
    exact (wrote_writeBackChecked s (gfMulWord_some ha hb hm hm')).completed
  | gfpow7 rd ra rb =>
    simp only [not_or, BitVec.not_lt] at hdom
    obtain ⟨hb, hm, hm'⟩ := hdom
    exact (wrote_writeBackChecked s (gfPow7Word_some hb hm hm')).completed
  | perm32 rd ra => exact (wrote_writeBack rd _ s).completed
  | sbox rd ra t => exact (wrote_writeBackChecked s (sboxWord_some t (BitVec.not_lt.mp hdom))).completed
  | roundf rd ra rb rc re =>
    simp only [not_or, BitVec.not_lt] at hdom
    obtain ⟨h0, h1⟩ := hdom
    exact (wrote_writeBackChecked s (roundFWord_some h0 h1 _)).completed
  | roundk rd ra r => exact (wrote_roundk rd ra r (hkey rfl)).completed
  | xor rd ra rb => exact (wrote_xor rd ra rb s).completed
  | keyset ra rb => exact ⟨_, rfl, completed_finish (s.writeKs _) .ok⟩
  | ksrd rd r j => exact (wrote_ksrd rd r j (hkey rfl)).completed
  | enc ra rb => exact (wroteBlock_enc (of_decide_eq_true hwf) (hkey rfl)).completed
  | dec ra rb => exact (wroteBlock_dec (of_decide_eq_true hwf) (hkey rfl)).completed

/-- R263: the commands that read KS check no operand. -/
theorem not_outOfDomain_of_readsKs {i : Instr} (s : State) (hreads : readsKs i = true) : ¬OutOfDomain s i := by
  cases i with
  | roundk | ksrd | enc | dec => exact id
  | _ => cases hreads

/-- Settles O35: the words without a cause of ILLEGAL are those that decode, and of the decoded commands those that read KS have
the key check alone and the others the domain check alone. -/
theorem codeCausesAndPriority : Obligations.CodeCausesAndPriority := by
  intro s w hp
  obtain ⟨t, ht, hlegal, -⟩ := everyCommandEndsWithOneCode s w hp
  refine ⟨⟨t, ht, hlegal⟩, fun hill => ?_, fun hleg => ?_⟩
  · cases hd : decode w with
    | ok i => exact absurd hill (exists_decode_ok_iff.mp ⟨i, hd⟩)
    | error e => exact endsWith_illegal_of_decode hp hd
  · obtain ⟨i, hd⟩ := exists_decode_ok_iff.mpr hleg
    obtain ⟨hwf, -⟩ := decode_ok_iff.mp hd
    refine ⟨i, hd, engineStep_of_decode hp hd, fun ⟨hreads, hk⟩ => endsWith_nokey hwf hreads hk, endsWith_operand,
      fun hkey hdom => exec_completed hwf (fun hreads => ?_) hdom,
      fun ⟨hreads, hdom⟩ => not_outOfDomain_of_readsKs s hreads hdom⟩
    exact Bool.eq_true_of_not_eq_false fun hk => hkey ⟨hreads, hk⟩

end Sys2Proof.Machine
end

section
/-! Reset, the reset-time build, and the progress of a run (spec/70_reset_and_hazards.md R290-R294, R302-R304): every step makes the
host's next move, drains PEND, or finds nothing left to do. -/

namespace Sys2Proof.Machine

/-! ### Reset -/

/-- Settles O44: STATUS after reset is its fields at 0, but for BUSY where PEND is BUILD. -/
theorem resetValues : Obligations.ResetValues := by
  have hstatus : State.reset.status = if Config.sboxBuildAtReset then 0x00000001 else 0x00000000 := by
    unfold State.reset Pend.reset
    cases Config.sboxBuildAtReset <;> decide
  exact ⟨by decide, by decide, rfl, rfl, rfl, rfl, rfl, hstatus⟩

/-- Settles O45: a reset is taken at once and replaces the block, and it gives the host no answer. -/
theorem resetAbandonsCommand : Obligations.ResetAbandonsCommand := fun _ _ _ htodo =>
  ⟨_, step_eq_resetMove htodo, rfl, rfl, rfl⟩

/-! ### The reset-time build -/

theorem engineStep_build {s : State} (hp : s.pend = .build) : engineStep s = .next s.buildDone := by
  rw [engineStep, hp]

/-- Of the effects of a step, only a reset puts BUILD in PEND. -/
theorem Effect.build_kept_or_reset {s t : State} (h : Effect s t) (hb : t.pend = .build) :
    s.pend = .build ∨ (ResetNext s ∧ Config.sboxBuildAtReset = true) := by
  cases h with
  | reset h => exact .inr ⟨h, Pend.sboxBuildAtReset_of_reset hb⟩
  | kept => exact .inl hb
  | issued => cases hb
  | written => exact .inl hb
  | built => cases hb
  | ran _ hr =>
    obtain ⟨c, -, -, hpend, -⟩ := hr.completed
    cases hpend.symm.trans hb

/-- Settles O46: the engine's step ends the build, and no step but a reset begins one. -/
theorem buildRunsOnceAfterReset : Obligations.BuildRunsOnceAfterReset := by
  have hbusy {s : State} (hp : s.pend = .build) : s.busy = true := s.busy_eq_true_iff.mpr (by simp [hp])
  refine ⟨fun s hp => ⟨hbusy hp, engineStep_build hp⟩, fun s a rest hp htodo hheld => ?_,
    fun s t hstep hb => (effect_step hstep).build_kept_or_reset hb⟩
  rw [step_eq_engineStep_of_held htodo (hbusy hp) (isStatusRead_eq_false hheld), engineStep_build hp, State.buildDone]

/-! ### Progress -/

theorem drained_busy (s : State) : s.drained.busy = false := s.drained.busy_eq_false_iff.mpr (drained_pend s)

/-- A step makes the host's next move, or the engine's while BUSY = 1, or nothing is left to do (R296, R303). -/
theorem step_progress (s : State) : ∃ t, step s = .next t ∧
    ((∃ move, s.port.todo = move :: t.port.todo) ∨ (s.busy = true ∧ t = s.drained) ∨ (Quiet s ∧ t = s)) := by
  rcases step_cases s with ⟨p, rest, htodo, hs⟩ | ⟨a, rest, htodo, -, hs⟩ | ⟨hbusy, -, hs⟩ | ⟨hidle, htodo, hs⟩
  · exact ⟨_, hs, .inl ⟨_, htodo⟩⟩
  · exact ⟨_, hs, .inl ⟨_, htodo⟩⟩
  · exact ⟨_, hs.trans (engineStep_eq_drained s), .inr (.inl ⟨hbusy, rfl⟩)⟩
  · exact ⟨s, hs, .inr (.inr ⟨⟨htodo, hidle⟩, rfl⟩)⟩

/-- Settles O48: every one of a step's cases has a next state. -/
theorem everyStepAnswers : Obligations.EveryStepAnswers := fun s =>
  let ⟨t, hs, _⟩ := step_progress s
  ⟨t, hs⟩

/-- Settles O47: a move of the host shortens its list, and the engine's step clears BUSY, so both change the state. -/
theorem runEndsWhenQuiet : Obligations.RunEndsWhenQuiet := by
  intro s
  obtain ⟨t, hs, ⟨move, htodo⟩ | ⟨hbusy, rfl⟩ | ⟨hquiet, rfl⟩⟩ := step_progress s
  · refine ⟨fun h => ?_, fun ⟨hnil, _⟩ => ?_⟩
    · cases hs.symm.trans h
      exact absurd htodo.symm (List.cons_ne_self _ _)
    · cases hnil.symm.trans htodo
  · refine ⟨fun h => ?_, fun ⟨_, hidle⟩ => ?_⟩
    · have hsame : s.drained = s := Host.Outcome.next.inj (hs.symm.trans h)
      cases hbusy.symm.trans (hsame ▸ drained_busy s)
    · cases hbusy.symm.trans hidle
  · exact ⟨fun _ => hquiet, fun _ => hs⟩

/-- A run begins with its first step. -/
theorem run_succ_of_step {M : Host.Core} {s u : M.State} (h : M.step s = .next u) (k : Nat) :
    M.run (k + 1) s = M.run k u := by
  rw [Host.Core.run, h]

/-- While BUSY = 1 a step makes the host's next move or clears BUSY, so the moves left bound the steps. -/
theorem exists_run_not_busy {s : State} (hbusy : s.busy = true) :
    ∃ k t, k ≤ s.port.todo.length + 1 ∧ Host.Core.run core k s = .next t ∧ t.busy = false := by
  induction hn : s.port.todo.length using Nat.strong_induction_on generalizing s with
  | _ n ih =>
    obtain ⟨u, hstep, ⟨move, htodo⟩ | ⟨-, rfl⟩ | ⟨⟨-, hidle⟩, -⟩⟩ := step_progress s
    · have hlen : u.port.todo.length + 1 = n := by rw [← hn, htodo, List.length_cons]
      cases hu : u.busy with
      | false => exact ⟨1, u, by omega, run_succ_of_step hstep 0, hu⟩
      | true =>
        obtain ⟨k, t, hk, hrun, ht⟩ := ih _ (by omega) hu rfl
        exact ⟨k + 1, t, by omega, (run_succ_of_step hstep k).trans hrun, ht⟩
    · exact ⟨1, s.drained, by omega, run_succ_of_step hstep 0, drained_busy s⟩
    · cases hbusy.symm.trans hidle

/-- An access that the host presents is served in the first step, or the engine's step comes first and leaves it to the second. -/
theorem exists_run_answered {s : State} {a : Access} {rest : List HostMove} (htodo : s.port.todo = .access a :: rest) :
    ∃ k t answer, k ≤ 2 ∧ Host.Core.run core k s = .next t ∧ t.port.todo = rest ∧
      t.port.answers = answer :: s.port.answers := by
  rcases step_eq_serve_or_engineStep htodo with hs | hs
  · exact ⟨1, s.serve a rest, _, by decide, run_succ_of_step hs 0, rfl, rfl⟩
  · have hfirst : step s = .next s.drained := hs.trans (engineStep_eq_drained s)
    have hsecond : step s.drained = .next (s.drained.serve a rest) :=
      step_eq_serve ((congrArg Port.todo (drained_port s)).trans htodo) (drained_busy s)
    have hrun : Host.Core.run core 2 s = .next (s.drained.serve a rest) :=
      (run_succ_of_step hfirst 1).trans (run_succ_of_step hsecond 0)
    exact ⟨2, _, (respond a s.drained).2, le_rfl, hrun, rfl, by rw [State.serve_port, drained_port]⟩

/-- Settles O49: the host's moves bound the steps while BUSY = 1, and the engine's step is the only one before an answer. -/
theorem busyEndsInFiniteTime : Obligations.BusyEndsInFiniteTime :=
  ⟨fun _ => exists_run_not_busy, fun _ _ _ => exists_run_answered⟩

end Sys2Proof.Machine
end

section
/-! The answer to a write (spec/20_memory.md R54, R55), to which the model gives no read data. -/

namespace Sys2Proof.Machine

theorem respond_write_rdata {a : Access} (hwe : a.we = true) (s : State) : (respond a s).2.rdata = none := by
  rcases respond_cases a s with hr | ⟨v, -, hread, -⟩ | ⟨s', -, -, -, hr⟩
  · rw [hr, errorAnswer, if_pos hwe]
  · cases hwe.symm.trans hread
  · rw [hr]

/-- Settles O53: the write is served, and neither the OK answer nor the ERROR answer to it has read data. -/
theorem writeAnswersCarryNoData : Obligations.WriteAnswersCarryNoData := by
  intro s t a rest hbusy htodo hwe hstep
  cases (step_eq_serve htodo hbusy).symm.trans hstep
  exact ⟨(respond a s).2.err, by rw [State.serve_port, ← respond_write_rdata hwe s]⟩

end Sys2Proof.Machine
end

section
/-! What follows from the product of R111 for GF(2^8) (spec/41_gf_perm.md section 1, spec/42_sbox.md section 1): `gfMul` computes
in the ring of residues modulo M(x), and for the moduli of the S-boxes that ring is a field. -/

namespace Sys2Proof.Machine

open Polynomial

/-! ### The product -/

/-- Settles O8: a byte is the remainder of its residue class, and residues multiply as a commutative ring. -/
theorem gfMulIsPolynomialProduct : Obligations.GfMulIsPolynomialProduct := by
  intro m hm
  refine ⟨fun a b => bitPoly_eq_modByMonic hm ?_, fun a b => residue_injective hm ?_, fun b => ?_,
    fun a b c => residue_injective hm ?_⟩
  · rw [residue_gfMul hm, map_mul]
    rfl
  · rw [residue_gfMul hm, residue_gfMul hm, mul_comm]
  · obtain ⟨hzero, -, hone⟩ := gfMul_corners hm b
    exact ⟨hzero, hone⟩
  · simp only [residue_gfMul hm, mul_assoc]

/-! ### Moduli without a factor of degree 1 to 4

The irreducible polynomials of degree 1, 2 and 4 divide x^16 - x, and those of degree 3 divide x^8 - x. So a modulus under which
the product of these two is invertible has no factor of degree up to 4, and being of degree 8 it has none at all. -/

/-- The residue of x^(2^n), by squaring x `n` times. -/
def powTwoPow (m : BitVec 9) (n : Nat) : Byte := (fun v => gfMul v v m)^[n] 2

theorem residue_powTwoPow {m : BitVec 9} (hm : m.getLsbD 8 = true) (n : Nat) :
    residue m (powTwoPow m n) = AdjoinRoot.mk (bitPoly m) (X ^ 2 ^ n) := by
  induction n with
  | zero => exact congrArg _ (bitPoly_twoPow (k := 1) (by decide))
  | succ n ih =>
    rw [powTwoPow, Function.iterate_succ_apply', residue_gfMul hm, ← powTwoPow, ih, ← map_mul, ← pow_add, ← two_mul,
      ← pow_succ']

theorem residue_powTwoPow_xor {m : BitVec 9} (hm : m.getLsbD 8 = true) (n : Nat) :
    residue m (powTwoPow m n ^^^ 2) = AdjoinRoot.mk (bitPoly m) (X ^ 2 ^ n - X) := by
  have hx : bitPoly (2 : Byte) = X := (bitPoly_twoPow (k := 1) (by decide)).trans (pow_one X)
  rw [residue_xor, residue_powTwoPow hm, residue, hx, ← map_add, CharTwo.sub_eq_add]

/-- The product of x^16 - x and x^8 - x modulo M(x). -/
def lowFactors (m : BitVec 9) : Byte := gfMul (powTwoPow m 4 ^^^ 2) (powTwoPow m 3 ^^^ 2) m

theorem residue_lowFactors {m : BitVec 9} (hm : m.getLsbD 8 = true) :
    residue m (lowFactors m) = AdjoinRoot.mk (bitPoly m) ((X ^ 2 ^ 4 - X) * (X ^ 2 ^ 3 - X)) := by
  rw [lowFactors, residue_gfMul hm, residue_powTwoPow_xor hm, residue_powTwoPow_xor hm, map_mul]

theorem irreducible_dvd_lowFactors {f : (ZMod 2)[X]} (hf : Irreducible f) (hdeg : f.natDegree ≤ 4) :
    f ∣ (X ^ 2 ^ 4 - X) * (X ^ 2 ^ 3 - X) := by
  have hpow {n : Nat} (h : f.natDegree ∣ n) : f ∣ X ^ 2 ^ n - X := by
    simpa using hf.natDegree_dvd_iff_dvd_X_pow_card_pow_sub_X.mp h
  have hpos := hf.natDegree_pos
  by_cases hthree : f.natDegree = 3
  · exact (hpow (by rw [hthree])).mul_left _
  · have hfour : f.natDegree ∣ 4 := by interval_cases f.natDegree <;> simp_all
    exact (hpow hfour).mul_right _

/-- A factor of degree 1 to 4 would divide the invertible product, and so 1. -/
theorem irreducible_modulus {m : BitVec 9} (hm : m.getLsbD 8 = true) {u : Byte} (hu : gfMul (lowFactors m) u m = 1) :
    Irreducible (bitPoly m) := by
  have hmonic := monic_bitPoly hm
  have hnat : (bitPoly m).natDegree = 8 := natDegree_eq_of_degree_eq_some (degree_bitPoly_modulus hm)
  refine (hmonic.irreducible_iff_lt_natDegree_lt fun h => by simp [h] at hnat).mpr fun q _ hq hqm => ?_
  obtain ⟨hpos, hle⟩ := Finset.mem_Ioc.mp hq
  obtain ⟨f, hf, hfq⟩ := exists_irreducible_of_natDegree_pos hpos
  have hfdeg : f.natDegree ≤ 4 := (natDegree_le_of_dvd hfq (ne_zero_of_natDegree_gt hpos)).trans (by omega)
  have hinv : AdjoinRoot.mk (bitPoly m) ((X ^ 2 ^ 4 - X) * (X ^ 2 ^ 3 - X) * bitPoly u) = AdjoinRoot.mk (bitPoly m) 1 := by
    rw [map_mul, ← residue_lowFactors hm, map_one]
    exact (residue_gfMul hm _ u).symm.trans (hu ▸ residue_one m)
  have hrest : f ∣ (X ^ 2 ^ 4 - X) * (X ^ 2 ^ 3 - X) * bitPoly u - 1 := (hfq.trans hqm).trans (AdjoinRoot.mk_eq_mk.mp hinv)
  have hone : f ∣ 1 := (dvd_sub_right ((irreducible_dvd_lowFactors hf hfdeg).mul_right _)).mp hrest
  exact hf.not_isUnit (isUnit_of_dvd_one hone)

/-! ### The moduli of the S-boxes -/

theorem smod_bit8 (t row : Fin 4) : smod[t][row].getLsbD 8 = true := by decide +revert

/-- The 254th power, where an inverse is to be looked for: the units of a field of 256 elements have orders that divide 255. -/
def gfPow254 (v : Byte) (m : BitVec 9) : Byte := (fun u => gfMul (gfMul u v m) (gfMul u v m) m)^[7] 1

theorem lowFactors_smod_invertible (t row : Fin 4) :
    gfMul (lowFactors smod[t][row]) (gfPow254 (lowFactors smod[t][row]) smod[t][row]) smod[t][row] = 1 := by
  decide +kernel +revert

theorem irreducible_smod (t row : Fin 4) : Irreducible (bitPoly smod[t][row]) :=
  irreducible_modulus (smod_bit8 t row) (lowFactors_smod_invertible t row)

/-- Under an irreducible modulus the residues are a field. -/
theorem eq_zero_or_eq_zero_of_gfMul_eq_zero {m : BitVec 9} (hm : m.getLsbD 8 = true) (hirr : Irreducible (bitPoly m))
    {a b : Byte} (h : gfMul a b m = 0) : a = 0 ∨ b = 0 := by
  have : Fact (Irreducible (bitPoly m)) := ⟨hirr⟩
  have hzero {v : Byte} (hv : residue m v = 0) : v = 0 := residue_injective hm (hv.trans (residue_zero m).symm)
  have hprod : residue m a * residue m b = 0 := by rw [← residue_gfMul hm, h]; exact residue_zero m
  exact (mul_eq_zero.mp hprod).imp hzero hzero

/-- Settles O14: each modulus is irreducible, so its residues are a field, which has no zero divisors. -/
theorem sboxModuliHaveNoZeroDivisors : Obligations.SboxModuliHaveNoZeroDivisors := fun t row =>
  ⟨smod_bit8 t row, fun _ _ => eq_zero_or_eq_zero_of_gfMul_eq_zero (smod_bit8 t row) (irreducible_smod t row)⟩

end Sys2Proof.Machine
end

section
/-! Where the bits of the S-box tables lie (spec/42_sbox.md section 2). -/

namespace Sys2Proof.Machine

/-- A placed byte is inside its eight bits, and `perm32` keeps it inside their images. -/
theorem sboxEntry_and_mask (t : Fin 4) (i : BitVec 10) :
    sboxEntry t i &&& perm32 (0xFF#32 <<< (24 - 8 * t.val)) = sboxEntry t i := by
  have hbyte (b : Byte) : b.setWidth 32 &&& 0xFF#32 = b.setWidth 32 := by
    have hmask : 0xFF#32 = (BitVec.allOnes 8).setWidth 32 := by decide
    rw [hmask, ← BitVec.setWidth_and, BitVec.and_allOnes]
  rw [sboxEntry, ← perm32_and, ← BitVec.shiftLeft_and_distrib, hbyte]

/-- Settles O16: an entry lies inside its mask, and the four masks are compared as constants. -/
theorem sboxTablesAreDisjoint : Obligations.SboxTablesAreDisjoint := by
  unfold Obligations.SboxTablesAreDisjoint
  intro mask
  have hmask (t : Fin 4) : mask.getD t 0 = perm32 (0xFF#32 <<< (24 - 8 * t.val)) := by decide +revert
  refine ⟨hmask, fun t i => ?_, by decide, by decide, sboxEntries_or_eq_xor⟩
  rw [hmask, ← sboxEntry_and_mask t i, BitVec.and_assoc, BitVec.and_not_self]
  exact BitVec.and_zero

end Sys2Proof.Machine
end

section
/-! The rotating registers of the key schedule (spec/44_key_schedule.md section 2). -/

namespace Sys2Proof.Machine

/-- A build rotates every register 15 times a round (R192). -/
theorem buildHalf_regs (kb : RotRegs) (ks : Schedule) (rot : List (Fin 4)) (n : Nat) :
    (buildHalf kb ks rot n).1 = rotateAll^[15 * rot.length] kb := by
  induction rot generalizing kb ks n with
  | nil => rfl
  | cons kr rot ih =>
    rw [buildHalf, ih, scheduleRound_regs, ← Function.iterate_add_apply, List.length_cons, Nat.mul_succ]

/-- Both builds rotate every register 240 times. -/
theorem buildSchedule_regs (kb : RotRegs) : (buildSchedule kb).1 = rotateAll^[240] kb := by
  rw [buildSchedule, buildHalf_regs, buildHalf_regs, ← Function.iterate_add_apply, keyrotLow_length, keyrotHigh_length]

/-- A full turn of 16 complements a register. -/
theorem rotateNot_iterate_sixteen : rotateNot^[16] = (~~~·) := by
  funext v
  apply BitVec.eq_of_getLsbD_eq
  intro i hi
  rw [rotateNot_iterate_getLsbD v 16 hi, Nat.add_comm, turnedBit_add_turn, BitVec.getLsbD_not, decide_eq_true hi, Bool.true_and,
    turnedBit, Nat.mod_eq_of_lt hi, Nat.div_eq_of_lt hi]
  simp

theorem rotateNot_iterate_turns (n : Nat) : rotateNot^[16 * n] = (~~~·)^[n] := by
  rw [Function.iterate_mul, rotateNot_iterate_sixteen]

/-- Settles O24: the 240 rotations of both builds are 15 full turns, an odd number of complements. -/
theorem rotatingRegistersEndComplemented : Obligations.RotatingRegistersEndComplemented := by
  have hinv : Function.Involutive fun v : BitVec 16 => ~~~v := fun _ => BitVec.not_not
  refine ⟨fun kb ks rot n q => ?_, rfl, rfl, fun v => ⟨congrFun rotateNot_iterate_sixteen v, ?_⟩, fun kb q => ?_⟩
  · rw [buildHalf_regs, rotateAll_iterate]
  · exact (congrFun (rotateNot_iterate_turns 2) v).trans (hinv v)
  · rw [buildSchedule_regs, rotateAll_iterate, rotateNot_iterate_turns 15, hinv.iterate_odd (by decide)]

end Sys2Proof.Machine
end

section
/-! The expansion of a half-block (spec/43_round.md section 1). -/

namespace Sys2Proof.Machine

/-- The bit of p that bit `j` of tl is (R160). -/
def leftSource (j : Nat) : Nat := if j < 10 then 16 + j else if j < 18 then 14 + j else j - 18

/-- The bit of p that bit `j` of tr is (R160). -/
def rightSource (j : Nat) : Nat := if j < 10 then j else j - 2

theorem expandLeft_getLsbD (p : Word) {j : Nat} (hj : j < 20) : (expandLeft p).getLsbD j = p.getLsbD (leftSource j) := by
  simp only [expandLeft, BitVec.getLsbD_append, BitVec.getLsbD_extractLsb', leftSource]
  by_cases hlow : j < 10
  · simp [hlow]
  by_cases hmid : j < 18
  · have hpos : 24 + (j - 10) = 14 + j := by omega
    simp [hlow, hmid, hpos, show j - 10 < 8 by omega]
  · simp [hlow, hmid, show ¬j - 10 < 8 by omega, show j - 18 < 2 by omega, Nat.sub_sub]

theorem expandRight_getLsbD (p : Word) {j : Nat} (hj : j < 20) : (expandRight p).getLsbD j = p.getLsbD (rightSource j) := by
  simp only [expandRight, BitVec.getLsbD_append, BitVec.getLsbD_extractLsb', rightSource]
  by_cases hlow : j < 10
  · simp [hlow]
  · have hpos : 8 + (j - 10) = j - 2 := by omega
    simp [hlow, hpos, show j - 10 < 10 by omega]

/-- Ten bits below the ten that the mask 0xFFC00 keeps of a word. -/
theorem lowField_or_masked_getLsbD (low : BitVec 10) (w : Word) {j : Nat} (hj : j < 20) :
    (low.setWidth 32 ||| (w &&& 0xFFC00)).getLsbD j = if j < 10 then low.getLsbD j else w.getLsbD j := by
  have hmask : ∀ i < 20, (0xFFC00 : Word).getLsbD i = decide (10 ≤ i) := by decide
  have hwidth : j < 32 := by omega
  rw [BitVec.getLsbD_or, BitVec.getLsbD_and, BitVec.getLsbD_setWidth, hmask j hj]
  by_cases hlow : j < 10
  · simp [hlow, hwidth]
  · simp [hlow, Nat.le_of_not_lt hlow]

theorem expandLeft_eq_rotateRight (p : Word) :
    expandLeft p = ((p.extractLsb' 16 10).setWidth 32 ||| (p.rotateRight 14 &&& 0xFFC00)).setWidth 20 := by
  apply BitVec.eq_of_getLsbD_eq
  intro j hj
  rw [expandLeft_getLsbD p hj, BitVec.getLsbD_setWidth, decide_eq_true hj, Bool.true_and, lowField_or_masked_getLsbD _ _ hj,
    BitVec.getLsbD_extractLsb', BitVec.getLsbD_rotateRight, leftSource]
  by_cases hlow : j < 10
  · simp [hlow]
  by_cases hmid : j < 18
  · simp [hlow, hmid]
  · simp [hlow, hmid, show j < 32 by omega]

theorem expandRight_eq_shiftLeft (p : Word) :
    expandRight p = ((p.extractLsb' 0 10).setWidth 32 ||| (p <<< 2 &&& 0xFFC00)).setWidth 20 := by
  apply BitVec.eq_of_getLsbD_eq
  intro j hj
  rw [expandRight_getLsbD p hj, BitVec.getLsbD_setWidth, decide_eq_true hj, Bool.true_and, lowField_or_masked_getLsbD _ _ hj,
    BitVec.getLsbD_extractLsb', BitVec.getLsbD_shiftLeft, rightSource]
  by_cases hlow : j < 10
  · simp [hlow]
  · simp [hlow, show j < 32 by omega, show ¬j < 2 by omega]

/-- Settles O18: the two lists of positions are the sources of the bits, and the count is read off them. -/
theorem expansionOfHalfBlock : Obligations.ExpansionOfHalfBlock := by
  unfold Obligations.ExpansionOfHalfBlock
  intro left right
  have hsource : ∀ j < 20, left.getD j 0 = leftSource j ∧ right.getD j 0 = rightSource j := by decide
  refine ⟨fun p j hj => ?_, fun p => ⟨expandLeft_eq_rotateRight p, expandRight_eq_shiftLeft p⟩, by decide⟩
  obtain ⟨hleft, hright⟩ := hsource j hj
  rw [hleft, hright]
  exact ⟨expandLeft_getLsbD p hj, expandRight_getLsbD p hj⟩

end Sys2Proof.Machine
end
